-- ==== Sys2Proof/Word.lean ====
section
/-! DEFINITION. The words of the block: bytes, byte sequences (R11), 32-bit values and frequencies (R12). -/

namespace Sys2Proof

/-- One byte, a `u8` (R10). -/
abbrev Byte := BitVec 8

/-- A byte sequence, its byte 0 first on the wire (R11, R43). -/
abbrev Bytes := List Byte

/-- A `u32` (R10). -/
abbrev Word32 := BitVec 32

/-- A frequency in MHz, an exact rational (R12).  An operand may be negative; the operations then fault (R75). -/
abbrev Freq := Rat

end Sys2Proof
end

