-- ==== Sys2Proof/Syntax.lean ====
section
/-! DEFINITION. The syntax: operand types (R74), one constructor of `Instr` per row of the opcode table, and the
items in which instructions reach the block. -/

namespace Sys2Proof

/-- Whether a frame addresses one chip or all (R64, R74). -/
inductive Group where
  | single
  | all
  deriving DecidableEq, Repr

/-- One entry of the PLL table (R33). -/
structure PllEntry where
  freq : Freq
  fbDivider : Byte
  refdiv : Byte
  postdiv1 : Byte
  postdiv2 : Byte
  deriving DecidableEq, Repr

/-- The job descriptor (R74): `k` is `num_midstates`.  Field lengths are checked by `Instr.wf`. -/
structure JobDesc where
  k : Nat
  startingNonce : Bytes
  nbits : Bytes
  ntime : Bytes
  merkleRoot : Bytes
  midstates : List Bytes
  deriving DecidableEq, Repr

/-- The payload fields of a job frame as they stand on the wire (R66). -/
structure JobFields where
  jobId : Byte
  numMidstates : Byte
  startingNonce : Bytes
  nbits : Bytes
  ntime : Bytes
  merkle4 : Bytes
  midstate0 : Bytes
  midstate1 : Bytes
  midstate2 : Bytes
  midstate3 : Bytes
  deriving DecidableEq, Repr

/-- The instructions: the seven wire rows and the twenty-seven host operations of the opcode table (R73). -/
inductive Instr where
  /-- FRAME_SETADDR: the set-address frame, header 0x40 (R65, R124). -/
  | frameSetaddr (addr : Byte)
  /-- FRAME_WRITE: the register-write frame, headers 0x41 and 0x51 (R65, R121). -/
  | frameWrite (g : Group) (chip reg d0 d1 d2 d3 : Byte)
  /-- FRAME_READ: the register-read frame, headers 0x42 and 0x52 (R65, R122). -/
  | frameRead (g : Group) (chip reg : Byte)
  /-- FRAME_INACTIVE: the chain-deactivate frame, headers 0x43 and 0x53 (R65, R126). -/
  | frameInactive (g : Group)
  /-- FRAME_JOB: the job frame, headers 0x21 and 0x31 (R66, R131). -/
  | frameJob (g : Group) (f : JobFields)
  /-- RESP_RESULT: a result frame after its preamble (R67, R150). -/
  | respResult (b0 b1 b2 b3 midNum idByte check : Byte)
  /-- RESP_CHIPID: a chip-ID response after its preamble (R68, R151). -/
  | respChipid (body : Bytes)
  /-- CRC5, op 0x01 (R100). -/
  | crc5 (bs : Bytes)
  /-- CRC16F, op 0x02 (R101). -/
  | crc16f (bs : Bytes)
  /-- REV8, op 0x03 (R102). -/
  | rev8 (b : Byte)
  /-- POW2FLOOR, op 0x04 (R103). -/
  | pow2floor (d : Word32)
  /-- MASKVAL, op 0x05 (R104). -/
  | maskval (d : Word32)
  /-- MASKDECODE, op 0x06 (R105). -/
  | maskdecode (m0 m1 m2 m3 : Byte)
  /-- CMDFRAME, op 0x10 (R120).  Its `cmd` is a u4 by R73, and one outside its type is an operand that R75 faults, so the
  operand here is any number. -/
  | cmdframe (g : Group) (cmd : Nat) (p : Bytes)
  /-- WRREG, op 0x11 (R121). -/
  | wrreg (g : Group) (chip reg : Byte) (data : Bytes)
  /-- RDREG, op 0x12 (R122). -/
  | rdreg (g : Group) (chip reg : Byte)
  /-- PROBE, op 0x13 (R123). -/
  | probe
  /-- SETADDR, op 0x14 (R124). -/
  | setaddr (addr : Byte)
  /-- ADDRASSIGN, op 0x15 (R125). -/
  | addrassign (n : Nat)
  /-- INACTIVE, op 0x16 (R126). -/
  | inactive
  /-- DIFFMASK, op 0x17 (R127). -/
  | diffmask (d : Word32)
  /-- FREQFRAME, op 0x18 (R128). -/
  | freqframe (e : PllEntry)
  /-- JOBFRAME, op 0x19 (R131). -/
  | jobframe (g : Group) (job : JobDesc)
  /-- INIT, op 0x1A (R132). -/
  | init (f : Freq) (chipCount : Nat) (d : Word32)
  /-- RECV_RESULT, op 0x20 (R150). -/
  | recvResult
  /-- CHECK_CHIPID, op 0x21 (R151). -/
  | checkChipid (rc : Int) (buf : Bytes)
  /-- ENUM_COUNT, op 0x22 (R152). -/
  | enumCount
  /-- PLL_LOOKUP, op 0x30 (R170). -/
  | pllLookup (f : Freq)
  /-- SETFREQ, op 0x31 (R172). -/
  | setfreq (f : Freq)
  /-- RAMP_REQ, op 0x40 (R191). -/
  | rampReq (f : Freq)
  /-- RAMP_STEP, op 0x41, the sequencer's own step (R193). -/
  | rampStep
  /-- RAMP_SETTLED, op 0x42, the settle timer's event (R194). -/
  | rampSettled
  /-- RAMP, op 0x43 (R196). -/
  | ramp (f : Freq)
  /-- RESET, op 0x7F (R240). -/
  | reset
  deriving DecidableEq, Repr

/-- One item issued to the block, with the kind of row it is read as (the "format" column of the opcode table).
DESIGN CHOICE (log 1, log 4): op numbers, header bytes and response preambles share values, so the kind is explicit. -/
inductive Item where
  /-- An operation number and its operands as bytes (R73, log 1). -/
  | host (bs : Bytes)
  /-- A composed frame, `55 AA ...` (R60). -/
  | frame (bs : Bytes)
  /-- A result frame, `AA 55 ...` (R67). -/
  | result (bs : Bytes)
  /-- A chip-ID response, `AA 55 ...` (R68). -/
  | chipid (bs : Bytes)
  deriving DecidableEq, Repr

end Sys2Proof
end

