-- ==== Sys2Proof/Config.lean ====
section
/-! DEFINITION. The configuration record (R7, R9), its values, and the free values the spec leaves open. -/

namespace Sys2Proof

/-- MASK_ROUNDING (R7, conflict C2). -/
inductive Rounding where
  | down
  | up
  deriving DecidableEq, Repr

/-- RAMP_ON_FAIL (R7, D12). -/
inductive OnFail where
  | continue_
  | abort
  deriving DecidableEq, Repr

/-- A total function of two bytes as plain data: the family's default formula, but for the listed arguments.
Every function of two bytes has this form (log 14). -/
structure ByteFn where
  overrides : List ((Byte × Byte) × Byte)
  deriving DecidableEq, Repr

/-- The FAMILY record (R9). -/
structure Family where
  chipId : BitVec 16
  chipidRespLen : Nat
  ticketMaskReg : Byte
  pll0Reg : Byte
  hasFreqReg : Bool
  freqCtrl : ByteFn
  pdPack : ByteFn
  deriving DecidableEq, Repr

/-- The parameters of the wire format in CFG (R7): preambles, header fields, command codes and checksum parameters.  R7 gives
each a value, `Config.wire`; several of the values are general knowledge, so they are data here and no constants (log 20). -/
structure Wire where
  /-- TX_PREAMBLE. -/
  txPreamble : Byte × Byte
  /-- TYPE_JOB. -/
  typeJob : Byte
  /-- TYPE_CMD. -/
  typeCmd : Byte
  /-- GROUP_SINGLE. -/
  groupSingle : Byte
  /-- GROUP_ALL. -/
  groupAll : Byte
  /-- CMD_SETADDR. -/
  cmdSetaddr : BitVec 4
  /-- CMD_WRITE. -/
  cmdWrite : BitVec 4
  /-- CMD_READ. -/
  cmdRead : BitVec 4
  /-- CMD_INACTIVE. -/
  cmdInactive : BitVec 4
  /-- CRC5_POLY. -/
  crc5Poly : BitVec 5
  /-- CRC5_INIT. -/
  crc5Init : BitVec 5
  /-- CRC16_POLY. -/
  crc16Poly : BitVec 16
  /-- CRC16_INIT. -/
  crc16Init : BitVec 16
  /-- CRC16_XOROUT. -/
  crc16Xorout : BitVec 16
  /-- RESP_PREAMBLE. -/
  respPreamble : Byte × Byte
  deriving DecidableEq, Repr

/-- The configuration record CFG (R7), its wire-format parameters as one field. -/
structure Cfg where
  wire : Wire
  jobHeaderCmd : BitVec 4
  resultLen : Nat
  jobidStep : Byte
  jobidMod : Nat
  maskRounding : Rounding
  rampStep : Freq
  eps : Freq
  bootFreq : Freq
  rampOnFail : OnFail
  pllTable : List PllEntry
  family : Family
  familyInitFrames : List Bytes
  baudFrames : List Bytes
  enumTimeoutMs : Nat
  workTimeoutMs : Nat
  settleDelayMs : Nat
  deriving DecidableEq, Repr

/-- What the transport answers to one Receive (R45): bytes, or the error code -1.  No bytes is a timeout. -/
inductive Answer where
  | bytes (bs : Bytes)
  | error
  deriving DecidableEq, Repr, Inhabited

namespace Config

/-- The wire-format parameters at the values of R7 (D1, D3, D4, D5). -/
def wire : Wire where
  txPreamble := (0x55, 0xAA)
  typeJob := 0x20
  typeCmd := 0x40
  groupSingle := 0x00
  groupAll := 0x10
  cmdSetaddr := 0x0
  cmdWrite := 0x1
  cmdRead := 0x2
  cmdInactive := 0x3
  crc5Poly := 0x05
  crc5Init := 0x1F
  crc16Poly := 0x1021
  crc16Init := 0xFFFF
  crc16Xorout := 0x0000
  respPreamble := (0xAA, 0x55)

/-- The default JOB_HEADER_CMD, CMD_WRITE (R7, D2); the opcode table's FRAME_JOB row is written for it. -/
def defaultJobHeaderCmd : BitVec 4 := 0x1

/-- The example table T_EX of 95_test_vectors.md section 0 (made up by the spec; log 7). -/
def tEx : List PllEntry :=
  [⟨50, 96, 2, 6, 4⟩, ⟨225 / 4, 108, 2, 6, 4⟩, ⟨125 / 2, 120, 2, 6, 4⟩, ⟨275 / 4, 132, 2, 6, 4⟩, ⟨75, 144, 2, 6, 4⟩] ++
  [⟨100, 192, 2, 6, 4⟩, ⟨400, 160, 1, 5, 2⟩, ⟨485, 194, 1, 5, 2⟩, ⟨490, 196, 1, 5, 2⟩, ⟨525, 210, 1, 5, 2⟩]

/-- The FAMILY defaults of R9, with CHIP_ID and CHIPID_RESP_LEN, which are OPEN, as 95_test_vectors.md section 0
fills them in (DESIGN CHOICE, log 7). -/
def family : Family where
  chipId := 0x1397
  chipidRespLen := 9
  ticketMaskReg := 0x14
  pll0Reg := 0x08
  hasFreqReg := true
  freqCtrl := ⟨[]⟩
  pdPack := ⟨[]⟩

/-- The configuration of `State.reset`: the defaults of R7, with the OPEN values as 95_test_vectors.md section 0
fills them in (DESIGN CHOICE, log 7; unsafe for the OPEN fields).  Statements hold for every configuration. -/
def cfg : Cfg where
  wire := wire
  jobHeaderCmd := defaultJobHeaderCmd
  resultLen := 9
  jobidStep := 4
  jobidMod := 128
  maskRounding := .down
  rampStep := 25 / 4
  eps := 0
  bootFreq := 225 / 4
  rampOnFail := .continue_
  pllTable := tEx
  family := family
  familyInitFrames := []
  baudFrames := []
  enumTimeoutMs := 1000
  workTimeoutMs := 10000
  settleDelayMs := 0

/-- Free: the transport's answer to the n-th Receive for which none stands in `State.rx` (R35, R45, U5; log 6). -/
opaque freeAnswer : Nat → Answer

/-- Free: a byte of a receive buffer beyond the bytes received (R45, U6; log 9). -/
opaque freeBufByte : Bytes → Nat → Byte

/-- Free: `x / 0` on frequencies, met only with RAMP_STEP = 0, which the launch refuses (R241; log 10). -/
opaque freeQuotient : Freq → Freq

/-- Free: `n mod 0`, met only with JOBID_MOD = 0, which the launch refuses (R241; log 10). -/
opaque freeRemainder : Nat → Nat

end Config

end Sys2Proof
end

