-- ==== Sys2Proof/Machine/Bits.lean ====
section
/-! DEFINITION. The checksum generators and bit utilities as pure functions (40_checksum.md). -/

namespace Sys2Proof.Machine

/-- One bit through CRC5_R, the loop body of R100. -/
def crc5Bit (w : Wire) (r : BitVec 5) (d : Bool) : BitVec 5 :=
  (r <<< 1) ^^^ (if xor (r.getLsbD 4) d then w.crc5Poly else 0)

/-- The bits of a byte, most significant first (R44, R100). -/
def bitsMsb (b : Byte) : List Bool :=
  [b.getLsbD 7, b.getLsbD 6, b.getLsbD 5, b.getLsbD 4, b.getLsbD 3, b.getLsbD 2, b.getLsbD 1, b.getLsbD 0]

/-- The per-bit update over a bit string, from CRC5_INIT (R100). -/
def crc5Bits (w : Wire) (bits : List Bool) : BitVec 5 :=
  bits.foldl (crc5Bit w) w.crc5Init

/-- The 5-bit CRC of a byte sequence (R100). -/
def crc5 (w : Wire) (bs : Bytes) : BitVec 5 :=
  crc5Bits w (bs.flatMap bitsMsb)

/-- The CRC5 as a byte, bits 7 to 5 zero (R62, R100). -/
def crc5Byte (w : Wire) (bs : Bytes) : Byte :=
  (crc5 w bs).setWidth 8

/-- One shift of CRC16_R (R101). -/
def crc16Shift (w : Wire) (r : BitVec 16) : BitVec 16 :=
  if r.getLsbD 15 then (r <<< 1) ^^^ w.crc16Poly else r <<< 1

/-- One byte through CRC16_R (R101). -/
def crc16Step (w : Wire) (r : BitVec 16) (b : Byte) : BitVec 16 :=
  Nat.repeat (crc16Shift w) 8 (r ^^^ (b.setWidth 16 <<< 8))

/-- The CRC16/CCITT-FALSE of a byte sequence (R101). -/
def crc16 (w : Wire) (bs : Bytes) : BitVec 16 :=
  bs.foldl (crc16Step w) w.crc16Init ^^^ w.crc16Xorout

/-- The high byte of a 16-bit value (R44, R63). -/
def hiByte (v : BitVec 16) : Byte := v.extractLsb' 8 8

/-- The low byte of a 16-bit value (R44, R63). -/
def loByte (v : BitVec 16) : Byte := v.extractLsb' 0 8

/-- REV8: bit k of the result is bit 7-k (R102). -/
def rev8 (b : Byte) : Byte := b.reverse

/-- POW2FLOOR: 1 for 0, else 2 to the index of the highest set bit (R103). -/
def pow2floor (d : Word32) : Word32 :=
  if d = 0 then 1 else BitVec.ofNat 32 (2 ^ d.toNat.log2)

/-- The least power of two not below max(d, 1), exact (R104, rounding up). -/
def pow2ceil (d : Word32) : Nat :=
  let m := max d.toNat 1
  if 2 ^ m.log2 = m then m else 2 ^ (m.log2 + 1)

/-- MASKVAL under a rounding direction (R104). -/
def maskval (rounding : Rounding) (d : Word32) : Word32 :=
  match rounding with
  | .down => pow2floor d - 1
  | .up => BitVec.ofNat 32 (pow2ceil d - 1)

/-- maskbytes: most significant byte first, each byte bit-reversed (R106). -/
def maskbytes (v : Word32) : Bytes :=
  [rev8 (v.extractLsb' 24 8), rev8 (v.extractLsb' 16 8), rev8 (v.extractLsb' 8 8), rev8 (v.extractLsb' 0 8)]

/-- MASKDECODE: the mask value of four wire bytes (R105). -/
def maskdecode (m0 m1 m2 m3 : Byte) : Word32 :=
  rev8 m0 ++ rev8 m1 ++ rev8 m2 ++ rev8 m3

/-- `m & (m + 1) = 0` without overflow: the value is 2^k - 1 (R107, R121, R244). -/
def isMask (m : Word32) : Bool :=
  m.toNat &&& (m.toNat + 1) == 0

/-- Four bytes as a little-endian value (R44, R150). -/
def le32 (b0 b1 b2 b3 : Byte) : Word32 :=
  b3 ++ b2 ++ b1 ++ b0

end Sys2Proof.Machine
end

