-- ==== Sys2Proof/Machine/FreqMath.lean ====
section
/-! DEFINITION. Exact frequency arithmetic (R12), the PLL table lookup (43_pll.md) and the ramp's next value (R192). -/

namespace Sys2Proof.Machine

/-- `|x - y|` (R12). -/
def absDiff (x y : Freq) : Freq :=
  if x ≤ y then y - x else x - y

/-- `x / s`; the spec gives no value for s = 0, which only a configuration refused at launch has (R241), so that
value is free (log 10). -/
def freqDiv (x s : Freq) : Freq :=
  if s = 0 then Config.freeQuotient x else x / s

/-- `aligned(x, s)`: x / s is an integer (R12). -/
def aligned (x s : Freq) : Bool :=
  (freqDiv x s).den == 1

/-- The smaller of two frequencies (R12). -/
def freqMin (x y : Freq) : Freq := if x ≤ y then x else y

/-- The larger of two frequencies (R12). -/
def freqMax (x y : Freq) : Freq := if x ≤ y then y else x

/-- `n mod m`; the spec gives no value for m = 0, which only a configuration refused at launch has (R241), so that
value is free (log 10). -/
def natMod (n m : Nat) : Nat :=
  if m = 0 then Config.freeRemainder n else n % m

/-- TableRead(i): entry i of PLL_TABLE, where there is one (R13, R33). -/
def tableRead (table : List PllEntry) (i : Nat) : Option PllEntry :=
  table[i]?

/-- The frequencies of a table are strictly ascending (R34). -/
def ascending : List PllEntry → Bool
  | [] => true
  | [_] => true
  | a :: b :: rest => decide (a.freq < b.freq) && ascending (b :: rest)

/-- A well-formed PLL table: strictly ascending, every frequency above 0 (R34). -/
def tableWf (table : List PllEntry) : Bool :=
  ascending table && table.all fun e => decide (0 < e.freq)

/-- The entry with the greatest index whose frequency is at or below `f`; none for an empty table or below the
first entry (R170). -/
def pllLookup (table : List PllEntry) (f : Freq) : Option PllEntry :=
  match tableRead table 0 with
  | none => none
  | some e0 => if f < e0.freq then none else (table.filter fun e => decide (e.freq ≤ f)).getLast?

/-- The loop of R171 with `hi + 1` as `stop`, for at most `fuel` rounds; `best` is the best entry so far. -/
def pllSearchFrom (table : List PllEntry) (f : Freq) : Nat → Nat → Nat → Option PllEntry → Option PllEntry
  | 0, _, _, best => best
  | fuel + 1, lo, stop, best =>
    if lo < stop then
      let mid := (lo + (stop - 1)) / 2
      match tableRead table mid with
      | none => best
      | some e =>
        if e.freq ≤ f then pllSearchFrom table f fuel (mid + 1) stop (some e)
        else pllSearchFrom table f fuel lo mid best
    else best

/-- The binary search of R171; it needs no more rounds than the table has entries. -/
def pllSearch (table : List PllEntry) (f : Freq) : Option PllEntry :=
  pllSearchFrom table f table.length 0 table.length none

/-- ramp_next(cur, tgt, dir) with step size `s` (R192); `up` says dir = +1 and `unit` is dir as a number. -/
def rampNext (s cur tgt : Freq) (up : Bool) (unit : Freq) : Freq :=
  let nxt :=
    if aligned cur s then cur + unit * s
    else if up then ((freqDiv cur s).ceil : Freq) * s
    else ((freqDiv cur s).floor : Freq) * s
  if up then freqMin nxt tgt else freqMax nxt tgt

end Sys2Proof.Machine
end

