-- ==== Sys2Proof/WellFormed.lean ====
section
/-! DEFINITION. Well-formed instructions: the fixed field lengths of R66, R68 and R74. -/

namespace Sys2Proof

/-- The byte arrays of a job descriptor have the lengths of R74. -/
def JobDesc.wf (j : JobDesc) : Bool :=
  j.startingNonce.length == 4 && j.nbits.length == 4 && j.ntime.length == 4 && j.merkleRoot.length == 32 &&
    j.midstates.all fun m => m.length == 32

/-- The 32 zero bytes of an unused midstate slot (R66). -/
def zeroMidstate : Bytes := List.replicate 32 0

/-- The fields of a job frame have the sizes of R66, and with fewer than four midstates the last three are zero. -/
def JobFields.wf (f : JobFields) : Bool :=
  f.startingNonce.length == 4 && f.nbits.length == 4 && f.ntime.length == 4 && f.merkle4.length == 4 &&
    f.midstate0.length == 32 && f.midstate1.length == 32 && f.midstate2.length == 32 && f.midstate3.length == 32 &&
    (f.numMidstates == 4 ||
      (f.midstate1 == zeroMidstate && f.midstate2 == zeroMidstate && f.midstate3 == zeroMidstate))

/-- An instruction is well formed when its fixed-size fields have their sizes; a chip-ID response has at least 5
bytes, its two preamble bytes included (R9).  Operand values the operations themselves fault on are well formed. -/
def Instr.wf : Instr → Bool
  | .jobframe _ j => j.wf
  | .frameJob _ f => f.wf
  | .respChipid body => decide (3 ≤ body.length)
  | .frameSetaddr _ => true
  | .frameWrite _ _ _ _ _ _ _ => true
  | .frameRead _ _ _ => true
  | .frameInactive _ => true
  | .respResult _ _ _ _ _ _ _ => true
  | .crc5 _ => true
  | .crc16f _ => true
  | .rev8 _ => true
  | .pow2floor _ => true
  | .maskval _ => true
  | .maskdecode _ _ _ _ => true
  | .cmdframe _ _ _ => true
  | .wrreg _ _ _ _ => true
  | .rdreg _ _ _ => true
  | .probe => true
  | .setaddr _ => true
  | .addrassign _ => true
  | .inactive => true
  | .diffmask _ => true
  | .freqframe _ => true
  | .init _ _ _ => true
  | .recvResult => true
  | .checkChipid _ _ => true
  | .enumCount => true
  | .pllLookup _ => true
  | .setfreq _ => true
  | .rampReq _ => true
  | .rampStep => true
  | .rampSettled => true
  | .ramp _ => true
  | .reset => true

end Sys2Proof
end

