-- ==== Sys2Proof/Machine/Operands.lean ====
section
/-! DEFINITION. Operand forms: the header byte, the composed frames and their payloads (30_encoding.md, 41_frames.md),
receive-buffer bytes (R45), and the launch check of the configuration (R241). -/

namespace Sys2Proof.Machine

/-- TX_PREAMBLE as bytes (R60). -/
def txBytes (w : Wire) : Bytes := [w.txPreamble.1, w.txPreamble.2]

/-- RESP_PREAMBLE as bytes (R67). -/
def respBytes (w : Wire) : Bytes := [w.respPreamble.1, w.respPreamble.2]

/-- The group bit of a header (R64). -/
def groupBits (w : Wire) : Group → Byte
  | .single => w.groupSingle
  | .all => w.groupAll

/-- The header byte, type OR group OR command code (R64). -/
def header (w : Wire) (type : Byte) (g : Group) (cmd : BitVec 4) : Byte :=
  type ||| groupBits w g ||| cmd.setWidth 8

/-- cmdframe(group, cmd, p): one command frame (R62, R120). -/
def cmdframe (w : Wire) (g : Group) (cmd : BitVec 4) (p : Bytes) : Bytes :=
  let body := header w w.typeCmd g cmd :: BitVec.ofNat 8 (p.length + 3) :: p
  txBytes w ++ body ++ [crc5Byte w body]

/-- jobframe(group, p): one job frame (R63, R130); `hc` is JOB_HEADER_CMD (conflict C1). -/
def jobframe (w : Wire) (hc : BitVec 4) (g : Group) (p : Bytes) : Bytes :=
  let body := header w w.typeJob g hc :: BitVec.ofNat 8 (p.length + 4) :: p
  txBytes w ++ body ++ [hiByte (crc16 w body), loByte (crc16 w body)]

/-- Byte i of a receive buffer; a byte beyond the buffer has no value of its own, so it is free (R45, U6; log 9). -/
def byteAt (buf : Bytes) (i : Nat) : Byte :=
  buf.getD i (Config.freeBufByte buf i)

/-- `buf[i..j)` (R11). -/
def slice (buf : Bytes) (i j : Nat) : Bytes :=
  (List.range (j - i)).map fun k => byteAt buf (i + k)

/-- The three midstate slots after the first: the job's own for k = 4, else zeros(96) (R66, R129). -/
def extraMidstates (k : Nat) (midstates : List Bytes) : Bytes :=
  if k = 4 then midstates.getD 1 [] ++ midstates.getD 2 [] ++ midstates.getD 3 [] else List.replicate 96 0

/-- jobpayload(id, job) (R66, R129). -/
def jobpayload (id : Byte) (job : JobDesc) : Bytes :=
  id :: BitVec.ofNat 8 job.k :: (job.startingNonce ++ job.nbits ++ job.ntime ++ job.merkleRoot.drop 28 ++
    job.midstates.getD 0 [] ++ extraMidstates job.k job.midstates)

/-- The payload of a job frame from its wire fields (R66). -/
def fieldsPayload (f : JobFields) : Bytes :=
  f.jobId :: f.numMidstates :: (f.startingNonce ++ f.nbits ++ f.ntime ++ f.merkle4 ++
    f.midstate0 ++ f.midstate1 ++ f.midstate2 ++ f.midstate3)

/-- The job descriptor that a job frame's fields stand for (R129): only the last four bytes of the Merkle root are
on the wire, so the first 28 are given as zeros, which no frame carries. -/
def fieldsJob (f : JobFields) : JobDesc where
  k := f.numMidstates.toNat
  startingNonce := f.startingNonce
  nbits := f.nbits
  ntime := f.ntime
  merkleRoot := List.replicate 28 0 ++ f.merkle4
  midstates := if f.numMidstates = 4 then [f.midstate0, f.midstate1, f.midstate2, f.midstate3] else [f.midstate0]

/-- The default FREQ_CTRL (R9, R128); the comparison is exact and only the result is a byte (DEDUCED, log 12). -/
def defaultFreqCtrl (fb refdiv : Byte) : Byte :=
  if fb.toNat * 25 ≥ 2400 * refdiv.toNat then 0x50 else 0x40

/-- The default PD_PACK, in u8 arithmetic (R9, R128). -/
def defaultPdPack (p1 p2 : Byte) : Byte :=
  ((p1 - 1) &&& 0xF) <<< 4 ||| ((p2 - 1) &&& 0xF)

/-- A family function at (a, b): its listed value there, else the default formula's (R9; log 14). -/
def byteFnEval (dflt : Byte → Byte → Byte) (f : ByteFn) (a b : Byte) : Byte :=
  (f.overrides.lookup (a, b)).getD (dflt a b)

/-- FAMILY.FREQ_CTRL (R9). -/
def freqCtrl (fam : Family) (fb refdiv : Byte) : Byte := byteFnEval defaultFreqCtrl fam.freqCtrl fb refdiv

/-- FAMILY.PD_PACK (R9). -/
def pdPack (fam : Family) (p1 p2 : Byte) : Byte := byteFnEval defaultPdPack fam.pdPack p1 p2

/-- The four PLL data bytes of an entry (R128). -/
def plldata (fam : Family) (e : PllEntry) : Bytes :=
  [freqCtrl fam e.fbDivider e.refdiv, e.fbDivider, e.refdiv, pdPack fam e.postdiv1 e.postdiv2]

/-- The frame FREQFRAME sends (R78, R128). -/
def freqFrame (c : Cfg) (e : PllEntry) : Bytes :=
  cmdframe c.wire .all c.wire.cmdWrite (0x00 :: c.family.pll0Reg :: plldata c.family e)

/-- The frame DIFFMASK sends (R78, R127). -/
def maskFrame (c : Cfg) (d : Word32) : Bytes :=
  cmdframe c.wire .all c.wire.cmdWrite (0x00 :: c.family.ticketMaskReg :: maskbytes (maskval c.maskRounding d))

/-- The frame WRREG sends (R65, R121). -/
def writeFrame (w : Wire) (g : Group) (chip reg : Byte) (data : Bytes) : Bytes :=
  cmdframe w g w.cmdWrite (chip :: reg :: data)

/-- The frame RDREG sends (R65, R122). -/
def readFrame (w : Wire) (g : Group) (chip reg : Byte) : Bytes :=
  cmdframe w g w.cmdRead [chip, reg]

/-- The frame SETADDR sends (R65, R124). -/
def setaddrFrame (w : Wire) (addr : Byte) : Bytes :=
  cmdframe w .single w.cmdSetaddr [addr, 0x00]

/-- The chain-deactivate frame (R65, R126). -/
def inactiveFrame (w : Wire) (g : Group) : Bytes :=
  cmdframe w g w.cmdInactive [0x00, 0x00]

/-- The set-address frames of ADDRASSIGN n, in ascending order (R125). -/
def addrFrames (w : Wire) (n : Nat) : List Bytes :=
  (List.range n).map fun i => setaddrFrame w (BitVec.ofNat 8 (i * (256 / n)))

/-- The type field of a header, bits 6 to 5 (R64, R71): 10 in TYPE_CMD and 01 in TYPE_JOB. -/
def headerType (h : Byte) : BitVec 2 := h.extractLsb' 5 2

/-- The three frame checks of R133, by the frame's type; a frame of neither type passes none (DEDUCED, log 15). -/
def frameOk (w : Wire) (f : Bytes) : Bool :=
  match f with
  | p0 :: p1 :: h :: l :: rest =>
    [p0, p1] == txBytes w && l.toNat == f.length - 2 && decide (f.length ≥ 5) &&
      (if headerType h = headerType w.typeCmd then
        rest.getLast? == some (crc5Byte w (h :: l :: rest.dropLast))
      else if headerType h = headerType w.typeJob then
        let c := crc16 w (h :: l :: rest.dropLast.dropLast)
        decide (rest.length ≥ 2) && rest.drop (rest.length - 2) == [hiByte c, loByte c]
      else false)
  | _ => false

/-- The launch conditions of R241 on a configuration.  Condition 6 (dividers are bytes, family functions are total)
holds by the types. -/
def cfgWf (c : Cfg) : Bool :=
  tableWf c.pllTable &&
  (c.familyInitFrames.all (frameOk c.wire) && c.baudFrames.all (frameOk c.wire)) &&
  (decide (0 < c.jobidStep.toNat) && c.jobidStep.toNat % 4 == 0) &&
  (decide (0 < c.jobidMod) && c.jobidMod % c.jobidStep.toNat == 0 && decide (c.jobidMod ≤ 256)) &&
  (decide (0 < c.rampStep) && decide (0 ≤ c.eps) && decide (0 ≤ c.bootFreq)) &&
  (decide (5 ≤ c.family.chipidRespLen) && decide (8 ≤ c.resultLen))

end Sys2Proof.Machine
end

