-- ==== Sys2Proof/Decode.lean ====
section
/-! DEFINITION. The decoder, total on any bytes and rejecting by name, and after it the encoder.  Wire frames and
responses are the spec's own bytes (30_encoding.md R60 to R72).  Host operations are an operation number (R73) and
operands; the spec gives the operands as typed values, so their byte form is the model's (DESIGN CHOICE, log 1). -/

namespace Sys2Proof

/-- Why bytes spell no instruction. -/
inductive DecodeError where
  /-- An operation number outside R73 (R76). -/
  | unknownOp (op : Byte)
  /-- The bytes end before the operands do. -/
  | truncated
  /-- Bytes are left after the operands. -/
  | trailing
  /-- A group byte that is neither GROUP_SINGLE nor GROUP_ALL (R74). -/
  | badGroup (b : Byte)
  /-- A sign byte that is neither 0 nor 1 (log 1). -/
  | badSign (b : Byte)
  /-- The first two bytes are not the preamble (R71). -/
  | badPreamble
  /-- A header byte outside the nine of R69 (R70). -/
  | reservedHeader (h : Byte)
  /-- The length byte does not fit the frame (R61, R71). -/
  | badLength
  /-- The checksum does not fit the frame (R62, R63). -/
  | badChecksum
  /-- The payload has no form of R65 or R66. -/
  | badPayload
  deriving DecidableEq, Repr

open Machine

/-! ## Operand readers: each takes the bytes and answers the operand and the bytes after it (log 1) -/

/-- The result of reading one operand. -/
abbrev ReadResult (α : Type) := Except DecodeError (α × Bytes)

/-- One byte. -/
def readByte : Bytes → ReadResult Byte
  | [] => .error .truncated
  | b :: bs => .ok (b, bs)

/-- The next `n` bytes. -/
def readBytesN (n : Nat) (bs : Bytes) : ReadResult Bytes :=
  if bs.length < n then .error .truncated else .ok (bs.take n, bs.drop n)

/-- A natural number, seven bits a byte, least significant first; bit 7 says that more bytes follow. -/
def readNat : Bytes → ReadResult Nat
  | [] => .error .truncated
  | b :: bs =>
    if b.toNat < 128 then .ok (b.toNat, bs)
    else match readNat bs with
      | .error e => .error e
      | .ok (n, rest) => .ok (b.toNat - 128 + 128 * n, rest)

/-- Read one operand, then go on with the bytes after it; an error ends the reading. -/
def chain {α β : Type} (r : ReadResult α) (k : α → Bytes → ReadResult β) : ReadResult β :=
  match r with
  | .error e => .error e
  | .ok (x, rest) => k x rest

/-- A byte sequence: its length, then its bytes. -/
def readBytes (bs : Bytes) : ReadResult Bytes :=
  chain (readNat bs) readBytesN

/-- A u32, least significant byte first. -/
def readWord32 (bs : Bytes) : ReadResult Word32 :=
  match bs with
  | b0 :: b1 :: b2 :: b3 :: rest => .ok (le32 b0 b1 b2 b3, rest)
  | _ => .error .truncated

/-- A group, written as its header bit (R74). -/
def readGroup (w : Wire) (bs : Bytes) : ReadResult Group :=
  match bs with
  | [] => .error .truncated
  | b :: rest =>
    if b = w.groupSingle then .ok (.single, rest)
    else if b = w.groupAll then .ok (.all, rest)
    else .error (.badGroup b)

/-- A sign byte: 0, or 1 for negative. -/
def readSign (bs : Bytes) : ReadResult Bool :=
  match bs with
  | [] => .error .truncated
  | b :: rest => if b = 0 then .ok (false, rest) else if b = 1 then .ok (true, rest) else .error (.badSign b)

/-- An integer: its sign, then its magnitude. -/
def readInt (bs : Bytes) : ReadResult Int :=
  chain (readSign bs) fun neg bs => chain (readNat bs) fun n rest => .ok (if neg then -(n : Int) else n, rest)

/-- A frequency: its numerator, then its denominator less one. -/
def readFreq (bs : Bytes) : ReadResult Freq :=
  chain (readInt bs) fun num bs => chain (readNat bs) fun den rest => .ok (mkRat num (den + 1), rest)

/-- A PLL entry: its frequency and four divider bytes. -/
def readEntry (bs : Bytes) : ReadResult PllEntry :=
  chain (readFreq bs) fun f bs => chain (readByte bs) fun fb bs => chain (readByte bs) fun rd bs =>
    chain (readByte bs) fun p1 bs => chain (readByte bs) fun p2 rest => .ok (⟨f, fb, rd, p1, p2⟩, rest)

/-- `n` midstates of 32 bytes. -/
def readMidstates : Nat → Bytes → ReadResult (List Bytes)
  | 0, bs => .ok ([], bs)
  | n + 1, bs =>
    chain (readBytesN 32 bs) fun m bs => chain (readMidstates n bs) fun ms rest => .ok (m :: ms, rest)

/-- A job descriptor: k, the four fixed fields, then the number of midstates and the midstates. -/
def readJob (bs : Bytes) : ReadResult JobDesc :=
  chain (readNat bs) fun k bs => chain (readBytesN 4 bs) fun nonce bs => chain (readBytesN 4 bs) fun nbits bs =>
    chain (readBytesN 4 bs) fun ntime bs => chain (readBytesN 32 bs) fun merkle bs =>
      chain (readNat bs) fun count bs => chain (readMidstates count bs) fun ms rest =>
        .ok (⟨k, nonce, nbits, ntime, merkle, ms⟩, rest)

/-- The operands of operation number `op` (R73). -/
def readOperands (w : Wire) (op : Byte) (bs : Bytes) : ReadResult Instr :=
  if op = 0x01 then chain (readBytes bs) fun x r => .ok (.crc5 x, r)
  else if op = 0x02 then chain (readBytes bs) fun x r => .ok (.crc16f x, r)
  else if op = 0x03 then chain (readByte bs) fun x r => .ok (.rev8 x, r)
  else if op = 0x04 then chain (readWord32 bs) fun x r => .ok (.pow2floor x, r)
  else if op = 0x05 then chain (readWord32 bs) fun x r => .ok (.maskval x, r)
  else if op = 0x06 then
    chain (readByte bs) fun m0 r => chain (readByte r) fun m1 r => chain (readByte r) fun m2 r =>
      chain (readByte r) fun m3 r => .ok (.maskdecode m0 m1 m2 m3, r)
  else if op = 0x10 then
    chain (readGroup w bs) fun g r => chain (readNat r) fun c r => chain (readBytes r) fun p r =>
      .ok (.cmdframe g c p, r)
  else if op = 0x11 then
    chain (readGroup w bs) fun g r => chain (readByte r) fun chip r => chain (readByte r) fun reg r =>
      chain (readBytes r) fun data r => .ok (.wrreg g chip reg data, r)
  else if op = 0x12 then
    chain (readGroup w bs) fun g r => chain (readByte r) fun chip r => chain (readByte r) fun reg r =>
      .ok (.rdreg g chip reg, r)
  else if op = 0x13 then .ok (.probe, bs)
  else if op = 0x14 then chain (readByte bs) fun x r => .ok (.setaddr x, r)
  else if op = 0x15 then chain (readNat bs) fun x r => .ok (.addrassign x, r)
  else if op = 0x16 then .ok (.inactive, bs)
  else if op = 0x17 then chain (readWord32 bs) fun x r => .ok (.diffmask x, r)
  else if op = 0x18 then chain (readEntry bs) fun x r => .ok (.freqframe x, r)
  else if op = 0x19 then chain (readGroup w bs) fun g r => chain (readJob r) fun j r => .ok (.jobframe g j, r)
  else if op = 0x1A then
    chain (readFreq bs) fun f r => chain (readNat r) fun n r => chain (readWord32 r) fun d r => .ok (.init f n d, r)
  else if op = 0x20 then .ok (.recvResult, bs)
  else if op = 0x21 then chain (readInt bs) fun rc r => chain (readBytes r) fun b r => .ok (.checkChipid rc b, r)
  else if op = 0x22 then .ok (.enumCount, bs)
  else if op = 0x30 then chain (readFreq bs) fun x r => .ok (.pllLookup x, r)
  else if op = 0x31 then chain (readFreq bs) fun x r => .ok (.setfreq x, r)
  else if op = 0x40 then chain (readFreq bs) fun x r => .ok (.rampReq x, r)
  else if op = 0x41 then .ok (.rampStep, bs)
  else if op = 0x42 then .ok (.rampSettled, bs)
  else if op = 0x43 then chain (readFreq bs) fun x r => .ok (.ramp x, r)
  else if op = 0x7F then .ok (.reset, bs)
  else .error (.unknownOp op)

/-- One host operation at the head of the bytes, with the bytes after it.  The operation number is checked before
any operand is read (R223). -/
def readOp (w : Wire) (bs : Bytes) : ReadResult Instr :=
  match bs with
  | [] => .error .truncated
  | op :: rest => readOperands w op rest

/-- A host operation that takes all of the bytes. -/
def decodeHost (w : Wire) (bs : Bytes) : Except DecodeError Instr :=
  match readOp w bs with
  | .error e => .error e
  | .ok (i, []) => .ok i
  | .ok (_, _ :: _) => .error .trailing

/-! ## Frames (R60 to R71) -/

/-- A composed frame: its kind, group, command code and payload (R60). -/
inductive Frame where
  | cmd (g : Group) (code : BitVec 4) (p : Bytes)
  | job (g : Group) (p : Bytes)
  deriving DecidableEq, Repr

/-- What a header says: a command frame with its group and code, or a job frame with its group (R64). -/
inductive HeaderKind where
  | cmd (g : Group) (code : BitVec 4)
  | job (g : Group)
  deriving DecidableEq, Repr

/-- The kinds of header the block composes, in the order of R69. -/
def composedKinds (w : Wire) : List HeaderKind :=
  [.cmd .single w.cmdSetaddr, .cmd .single w.cmdWrite, .cmd .all w.cmdWrite, .cmd .single w.cmdRead, .cmd .all w.cmdRead] ++
    [.cmd .single w.cmdInactive, .cmd .all w.cmdInactive, .job .single, .job .all]

/-- The header byte of a kind, JOB_HEADER_CMD being `hc` (R64). -/
def headerOf (w : Wire) (hc : BitVec 4) : HeaderKind → Byte
  | .cmd g code => header w w.typeCmd g code
  | .job g => header w w.typeJob g hc

/-- The header values the block composes (R69). -/
def composedHeaders (w : Wire) (hc : BitVec 4) : List Byte :=
  (composedKinds w).map (headerOf w hc)

/-- What a header byte says; none for a reserved one (R70). -/
def headerKind (w : Wire) (hc : BitVec 4) (h : Byte) : Option HeaderKind :=
  (composedKinds w).find? fun k => headerOf w hc k == h

/-- A composed frame from its bytes (R71): preamble, header, length byte and checksum are checked in that order.  A
reserved header spells no frame (R70). -/
def parseFrame (w : Wire) (hc : BitVec 4) (bs : Bytes) : Except DecodeError Frame :=
  match bs with
  | p0 :: p1 :: h :: l :: rest =>
    if [p0, p1] ≠ txBytes w then .error .badPreamble
    else match headerKind w hc h with
      | none => .error (.reservedHeader h)
      | some kind =>
        if l.toNat ≠ rest.length + 2 then .error .badLength
        else match kind with
          | .cmd g code =>
            if rest.getLast? = some (crc5Byte w (h :: l :: rest.dropLast)) then .ok (.cmd g code rest.dropLast)
            else .error .badChecksum
          | .job g =>
            let p := rest.take (rest.length - 2)
            let c := crc16 w (h :: l :: p)
            if rest.drop (rest.length - 2) = [hiByte c, loByte c] then .ok (.job g p) else .error .badChecksum
  | _ => .error .truncated

/-- The wire fields of a job payload, by their offsets (R66). -/
def payloadFields (p : Bytes) : JobFields where
  jobId := p.getD 0 0
  numMidstates := p.getD 1 0
  startingNonce := (p.drop 2).take 4
  nbits := (p.drop 6).take 4
  ntime := (p.drop 10).take 4
  merkle4 := (p.drop 14).take 4
  midstate0 := (p.drop 18).take 32
  midstate1 := (p.drop 50).take 32
  midstate2 := (p.drop 82).take 32
  midstate3 := (p.drop 114).take 32

/-- The instruction of a frame: one of the payload forms of R65 and R66. -/
def frameInstr (w : Wire) : Frame → Except DecodeError Instr
  | .cmd g code p =>
    if code = w.cmdSetaddr then
      match g, p with
      | .single, [a, z] => if z = 0 then .ok (.frameSetaddr a) else .error .badPayload
      | _, _ => .error .badPayload
    else if code = w.cmdWrite then
      match p with
      | [chip, reg, d0, d1, d2, d3] => .ok (.frameWrite g chip reg d0 d1 d2 d3)
      | _ => .error .badPayload
    else if code = w.cmdRead then
      match p with
      | [chip, reg] => .ok (.frameRead g chip reg)
      | _ => .error .badPayload
    else if p = [0, 0] then .ok (.frameInactive g)
    else .error .badPayload
  | .job g p =>
    if p.length = 146 ∧ (payloadFields p).wf then .ok (.frameJob g (payloadFields p)) else .error .badPayload

/-- A result frame (R67).  The table row and R67 lay out nine bytes, so exactly nine are read, whatever RESULT_LEN the
configuration has, and any other length spells no result frame (DESIGN CHOICE, unsafe, log 22). -/
def decodeResult (w : Wire) (bs : Bytes) : Except DecodeError Instr :=
  match bs with
  | [p0, p1, b0, b1, b2, b3, m, i, c] =>
    if [p0, p1] = respBytes w then .ok (.respResult b0 b1 b2 b3 m i c) else .error .badPreamble
  | _ => .error .badLength

/-- A chip-ID response of at least 5 bytes (R9, R68); how many the configuration expects is checked when it is run (R151). -/
def decodeChipid (w : Wire) (bs : Bytes) : Except DecodeError Instr :=
  match bs with
  | p0 :: p1 :: body =>
    if [p0, p1] ≠ respBytes w then .error .badPreamble
    else if 3 ≤ body.length then .ok (.respChipid body)
    else .error .badLength
  | _ => .error .truncated

/-- The decoder under a configuration: its wire-format parameters, and its JOB_HEADER_CMD, which the job headers carry
(R7, R64, R69). -/
def decodeUnder (c : Cfg) : Item → Except DecodeError Instr
  | .host bs => decodeHost c.wire bs
  | .frame bs =>
    match parseFrame c.wire c.jobHeaderCmd bs with
    | .error e => .error e
    | .ok f => frameInstr c.wire f
  | .result bs => decodeResult c.wire bs
  | .chipid bs => decodeChipid c.wire bs

/-- The decoder under the values of R7, for which the opcode table is written. -/
def decode (it : Item) : Except DecodeError Instr :=
  decodeUnder Config.cfg it

/-! ## The encoder -/

/-- A natural number, seven bits a byte; `fuel` bounds the number of further bytes. -/
def writeNatFuel : Nat → Nat → Bytes
  | 0, n => [BitVec.ofNat 8 n]
  | fuel + 1, n =>
    if n < 128 then [BitVec.ofNat 8 n]
    else BitVec.ofNat 8 (n % 128 + 128) :: writeNatFuel fuel (n / 128)

/-- A natural number (read by `readNat`). -/
def writeNat (n : Nat) : Bytes := writeNatFuel n n

/-- A byte sequence (read by `readBytes`). -/
def writeBytes (bs : Bytes) : Bytes := writeNat bs.length ++ bs

/-- A u32, least significant byte first (read by `readWord32`). -/
def writeWord32 (d : Word32) : Bytes :=
  [d.extractLsb' 0 8, d.extractLsb' 8 8, d.extractLsb' 16 8, d.extractLsb' 24 8]

/-- A group (R74). -/
def writeGroup (w : Wire) (g : Group) : Bytes := [groupBits w g]

/-- An integer (read by `readInt`). -/
def writeInt (x : Int) : Bytes := (if x < 0 then 1 else 0) :: writeNat x.natAbs

/-- A frequency (read by `readFreq`). -/
def writeFreq (f : Freq) : Bytes := writeInt f.num ++ writeNat (f.den - 1)

/-- A PLL entry (read by `readEntry`). -/
def writeEntry (e : PllEntry) : Bytes := writeFreq e.freq ++ [e.fbDivider, e.refdiv, e.postdiv1, e.postdiv2]

/-- A job descriptor (read by `readJob`). -/
def writeJob (j : JobDesc) : Bytes :=
  writeNat j.k ++ (j.startingNonce ++ (j.nbits ++ (j.ntime ++ (j.merkleRoot ++
    (writeNat j.midstates.length ++ j.midstates.flatten)))))

/-- The item of an instruction: the spec's bytes for a wire row (R62, R63, R67, R68), the operation number (R73) and
the operands for a host operation. -/
def encodeUnder (c : Cfg) : Instr → Item
  | .frameSetaddr a => .frame (setaddrFrame c.wire a)
  | .frameWrite g chip reg d0 d1 d2 d3 => .frame (writeFrame c.wire g chip reg [d0, d1, d2, d3])
  | .frameRead g chip reg => .frame (readFrame c.wire g chip reg)
  | .frameInactive g => .frame (inactiveFrame c.wire g)
  | .frameJob g f => .frame (jobframe c.wire c.jobHeaderCmd g (fieldsPayload f))
  | .respResult b0 b1 b2 b3 m i check => .result (respBytes c.wire ++ [b0, b1, b2, b3, m, i, check])
  | .respChipid body => .chipid (respBytes c.wire ++ body)
  | .crc5 bs => .host (0x01 :: writeBytes bs)
  | .crc16f bs => .host (0x02 :: writeBytes bs)
  | .rev8 b => .host [0x03, b]
  | .pow2floor d => .host (0x04 :: writeWord32 d)
  | .maskval d => .host (0x05 :: writeWord32 d)
  | .maskdecode m0 m1 m2 m3 => .host [0x06, m0, m1, m2, m3]
  | .cmdframe g cmd p => .host (0x10 :: (writeGroup c.wire g ++ (writeNat cmd ++ writeBytes p)))
  | .wrreg g chip reg d => .host (0x11 :: (writeGroup c.wire g ++ (chip :: reg :: writeBytes d)))
  | .rdreg g chip reg => .host (0x12 :: (writeGroup c.wire g ++ [chip, reg]))
  | .probe => .host [0x13]
  | .setaddr a => .host [0x14, a]
  | .addrassign n => .host (0x15 :: writeNat n)
  | .inactive => .host [0x16]
  | .diffmask d => .host (0x17 :: writeWord32 d)
  | .freqframe e => .host (0x18 :: writeEntry e)
  | .jobframe g j => .host (0x19 :: (writeGroup c.wire g ++ writeJob j))
  | .init f n d => .host (0x1A :: (writeFreq f ++ (writeNat n ++ writeWord32 d)))
  | .recvResult => .host [0x20]
  | .checkChipid rc b => .host (0x21 :: (writeInt rc ++ writeBytes b))
  | .enumCount => .host [0x22]
  | .pllLookup f => .host (0x30 :: writeFreq f)
  | .setfreq f => .host (0x31 :: writeFreq f)
  | .rampReq f => .host (0x40 :: writeFreq f)
  | .rampStep => .host [0x41]
  | .rampSettled => .host [0x42]
  | .ramp f => .host (0x43 :: writeFreq f)
  | .reset => .host [0x7F]

/-- The item of an instruction under the values of R7. -/
def encode (i : Instr) : Item :=
  encodeUnder Config.cfg i

/-! ## The opcode table's numbering -/

/-- The frame of a kind of header with every operand byte zero; its length byte and checksum are computed (R61 to R63). -/
def zeroFrame : HeaderKind → Bytes
  | .cmd g code => cmdframe Config.wire g code (List.replicate (if code = Config.wire.cmdWrite then 6 else 2) 0)
  | .job g => jobframe Config.wire Config.defaultJobHeaderCmd g (List.replicate 146 0)

/-- The host operation whose number is the word's low byte, with further bytes zero: the shortest item that takes
all its operands. -/
def zeroOp (nbits w : Nat) : Item :=
  let given : Bytes := (List.range (nbits / 8)).map fun k => BitVec.ofNat 8 (w >>> (8 * k))
  let bs := given ++ List.replicate 64 0
  match readOp Config.wire bs with
  | .ok (_, rest) => .host (bs.take (bs.length - rest.length))
  | .error _ => .host given

/-- The item of a table word.  A 16-bit word 0xAA55 is a response preamble, first byte AA (R67); an 8-bit word that is
an operation number of R73 is that operation; any other composed header is its frame (log 4). -/
def tableItem (nbits w : Nat) : Item :=
  if nbits = 16 ∧ w = 0xAA55 then .result (respBytes Config.wire ++ List.replicate 7 0)
  else
    match decode (zeroOp nbits w), headerKind Config.wire Config.defaultJobHeaderCmd (BitVec.ofNat 8 w) with
    | .ok _, _ => zeroOp nbits w
    | .error _, none => zeroOp nbits w
    | .error _, some kind => if nbits = 8 then .frame (zeroFrame kind) else zeroOp nbits w

/-- The instruction the decoder reads from a word of the opcode table, the bits above `nbits` zero. -/
def decodeTableWord (nbits w : Nat) : Option Instr :=
  match decode (tableItem nbits w) with
  | .ok i => some i
  | .error _ => none

end Sys2Proof
end

