-- ==== Sys2Proof/Machine/State.lean ====
section
/-! DEFINITION. The state (10_state.md), the statuses (R220) and sticky faults (R222), the outcomes that stop a step (none is answered),
launch (R241) and reset. -/

namespace Sys2Proof.Machine

/-- RAMP_STATE (R27). -/
inductive RampState where
  | idle
  | stepping
  | settling
  deriving DecidableEq, Repr

/-- RAMP_DIR: -1, 0 or +1 (R25). -/
inductive RampDir where
  | down
  | none
  | up
  deriving DecidableEq, Repr

/-- The value an `OK` status carries (R220). -/
inductive Value where
  | none
  | count (n : Nat)
  | freq (actual : Freq)
  | entry (fbDivider refdiv postdiv1 postdiv2 : Byte) (actual : Freq)
  | u8 (v : Byte)
  | u16 (v : BitVec 16)
  | u32 (v : Word32)
  deriving DecidableEq, Repr

/-- The statuses (R220). -/
inductive Status where
  | ok (v : Value)
  | result (id midx : Byte) (nonceRaw : Bytes) (nonceLe : Word32)
  | noneTimeout
  | noneTransport
  | noneLength (rc : Int)
  | nonePreamble (b0 b1 : Byte)
  | noneCrc
  | noneChipid (b2 b3 : Byte)
  | noneProtocol (id : Byte)
  | errPllRange
  | errUnsupported
  | errNoChips
  | errBusy
  | errRampAborted
  deriving DecidableEq, Repr

/-- The offending operand that F_OPERAND records (R222). -/
inductive OperandVal where
  | nat (n : Nat)
  | freq (f : Freq)
  | bytes (bs : Bytes)
  deriving DecidableEq, Repr

/-- A sticky fault with its info (R222).  These are entries of FAULTS; none of them stops the block (R225). -/
inductive StickyFault where
  /-- F_OPERAND, code 0x80. -/
  | operand (v : OperandVal)
  /-- F_HAZARD_FREQ, code 0x81, with the requested frequency. -/
  | hazardFreq (f : Freq)
  /-- F_HAZARD_FREQ, code 0x81, with the data bytes of a raw write. -/
  | hazardFreqData (data : Bytes)
  /-- F_HAZARD_MASK, code 0x82, with the data bytes. -/
  | hazardMask (data : Bytes)
  deriving DecidableEq, Repr

/-- An entry of TX_LOG (R29). -/
inductive TxEvent where
  | send (frame : Bytes)
  | clearBuffer
  | receive (n timeoutMs : Nat) (rc : Int) (buf : Bytes)
  | settle
  deriving DecidableEq, Repr

/-- The host operation in progress (R229): the operations that wait, with what their pseudocode still holds. -/
inductive Progress where
  /-- No host operation is in progress. -/
  | idle
  /-- ENUM_COUNT waits for an answer, with `count` so far (R152). -/
  | enumCount (count : Nat)
  /-- INIT f, chip_count, d is in its ENUM_COUNT, with `count` so far (R132). -/
  | initEnum (f : Freq) (chipCount : Nat) (d : Word32) (count : Nat)
  /-- RAMP is at its loop, with its ramp_status (R193, R196). -/
  | ramp (status : Status)
  /-- INIT is in its RAMP, with the count it will return and the ramp_status it will drop (R132, D54). -/
  | initRamp (count : Nat) (status : Status)
  deriving DecidableEq, Repr

/-- Faults that stop the machine.  There are none: every fault of the spec is an entry of FAULTS, and "a model runs on
after either" a fault or a refusal mark (R225), so `step` never answers `fault` (log 16). -/
inductive Fault where
  deriving DecidableEq, Repr

/-- The refusals, by name: none is ever answered.  What the model gives no meaning to sets REFUSED, and the machine runs
on (R37, R76, R225; log 17). -/
inductive Refusal where
  /-- An instruction without a meaning; raised by no arm of `exec` in this model.  Safe. -/
  | notModelled (mnemonic : String)
  deriving DecidableEq, Repr

/-- The state: the tuple of R20, the configuration (R26), the operation in progress (R229), and five fields of the
model's own (the last five). -/
structure State where
  /-- JOBID_CTR (R22). -/
  jobidCtr : Byte
  /-- RAMP_STATE (R27). -/
  rampState : RampState
  /-- RAMP_CUR (R23). -/
  rampCur : Freq
  /-- RAMP_TGT (R24). -/
  rampTgt : Freq
  /-- RAMP_DIR (R25). -/
  rampDir : RampDir
  /-- FAULTS, a set: a list without repeats, in order of first occurrence (R28; log 13). -/
  faults : List StickyFault
  /-- REFUSED (R37). -/
  refused : Bool
  /-- TX_LOG, oldest entry first (R29). -/
  txLog : List TxEvent
  /-- CFG (R26). -/
  cfg : Cfg
  /-- The host operation in progress (R229). -/
  op : Progress
  /-- The model's own: the status last returned to the host (R220; log 5). -/
  ret : Option Status
  /-- The model's own: the items issued to the block, next first (log 2). -/
  port : List Item
  /-- The model's own: the transport's coming answers, next first (R35, R45; log 6). -/
  rx : List Answer
  /-- The model's own: how many free answers have been drawn (log 6). -/
  draws : Nat
  /-- The model's own: the scheduler's coming choices, whether the settle timer fires before the transport answers; with none
  left, the timer fires (R229, R250; log 8). -/
  timerFirst : List Bool
  deriving DecidableEq, Repr

/-- The launch state under a configuration: every register at its R36 value, and REFUSED set when the configuration
fails the launch check (R241). -/
def State.launch (c : Cfg) : State where
  jobidCtr := 0
  rampState := .idle
  rampCur := c.bootFreq
  rampTgt := c.bootFreq
  rampDir := .none
  faults := []
  refused := !cfgWf c
  txLog := []
  cfg := c
  op := .idle
  ret := none
  port := []
  rx := []
  draws := 0
  timerFirst := []

/-- The machine right after reset: the launch state (R36, R241) under `Config.cfg` (log 7). -/
def State.reset : State := State.launch Config.cfg

end Sys2Proof.Machine
end

