-- ==== Sys2Proof/Machine/Flags.lean ====
section
/-! DEFINITION. The flag-like conditions (R31), the numeric codes and classes of statuses and faults (R220, R222), and
the source-level return values (R221). -/

namespace Sys2Proof.Machine

/-- "ramp busy" (R31). -/
def rampBusy (s : State) : Bool := s.rampState != .idle

/-- "faulted" (R31). -/
def faulted (s : State) : Bool := !s.faults.isEmpty

/-- "lookup failed": the status ERR_PLL_RANGE of a PLL_LOOKUP or SETFREQ (R31). -/
def lookupFailed (st : Status) : Bool := st == .errPllRange

/-- The status is OK; the pseudocode's "s != OK" is its negation (R193, R196). -/
def isOk : Status → Bool
  | .ok _ => true
  | .result _ _ _ _ => false
  | .noneTimeout => false
  | .noneTransport => false
  | .noneLength _ => false
  | .nonePreamble _ _ => false
  | .noneCrc => false
  | .noneChipid _ _ => false
  | .noneProtocol _ => false
  | .errPllRange => false
  | .errUnsupported => false
  | .errNoChips => false
  | .errBusy => false
  | .errRampAborted => false

/-- The numeric status codes (R220). -/
def statusCode : Status → Byte
  | .ok _ => 0x00
  | .result _ _ _ _ => 0x00
  | .noneTimeout => 0x01
  | .noneTransport => 0x02
  | .noneLength _ => 0x03
  | .nonePreamble _ _ => 0x04
  | .noneCrc => 0x05
  | .noneChipid _ _ => 0x06
  | .noneProtocol _ => 0x07
  | .errPllRange => 0x10
  | .errUnsupported => 0x11
  | .errNoChips => 0x12
  | .errBusy => 0x13
  | .errRampAborted => 0x14

/-- The source's error classes (R220, column "§7 class"). -/
inductive StatusClass where
  | success
  | transportError
  | integrityError
  | protocolStateError
  | lookupFailure
  | unsupportedOperation
  | hardInitFailure
  | specOwn
  deriving DecidableEq, Repr

/-- The class of a status (R220). -/
def statusClass : Status → StatusClass
  | .ok _ => .success
  | .result _ _ _ _ => .success
  | .noneTimeout => .transportError
  | .noneTransport => .transportError
  | .noneLength _ => .transportError
  | .nonePreamble _ _ => .integrityError
  | .noneCrc => .integrityError
  | .noneChipid _ _ => .integrityError
  | .noneProtocol _ => .protocolStateError
  | .errPllRange => .lookupFailure
  | .errUnsupported => .unsupportedOperation
  | .errNoChips => .hardInitFailure
  | .errBusy => .specOwn
  | .errRampAborted => .specOwn

/-- The numeric fault codes (R222). -/
def faultCode : StickyFault → Byte
  | .operand _ => 0x80
  | .hazardFreq _ => 0x81
  | .hazardFreqData _ => 0x81
  | .hazardMask _ => 0x82

/-- The source's `init` return, the detected count, 0 for a failure (R221); none for a status INIT never returns. -/
def initReturn : Status → Option Nat
  | .ok (.count n) => some n
  | .errNoChips => some 0
  | .errBusy => some 0
  | _ => none

/-- The source's `process_work` return: the decoded fields, or none for every NONE_* status (R221). -/
def resultReturn : Status → Option (Byte × Byte × Bytes × Word32)
  | .result id midx raw le => some (id, midx, raw, le)
  | _ => none

/-- The source's `set_frequency` return, a boolean (R221); none for a status SETFREQ never returns. -/
def setfreqReturn : Status → Option Bool
  | .ok (.freq _) => some true
  | .errPllRange => some false
  | .errUnsupported => some false
  | _ => none

/-- The source's `lookup` return: the entry or none (R221). -/
def lookupReturn : Status → Option PllEntry
  | .ok (.entry fb rd p1 p2 actual) => some ⟨actual, fb, rd, p1, p2⟩
  | _ => none

end Sys2Proof.Machine
end

