-- ==== Sys2Proof/Machine/Ops.lean ====
section
/-! DEFINITION. The named operations over the state: the primitives of R13, how an operation ends (return, fault,
wait), the host hazard checks (R121, R243, R244), and the operations that several instructions share. -/

namespace Sys2Proof.Machine

/-! ## Primitives (R13) -/

/-- Append one entry to TX_LOG (R29). -/
def State.log (s : State) (e : TxEvent) : State :=
  { s with txLog := s.txLog ++ [e] }

/-- Send(frame) (R13, R47). -/
def State.send (s : State) (frame : Bytes) : State :=
  s.log (.send frame)

/-- Several Sends, in list order. -/
def State.sendAll (s : State) (frames : List Bytes) : State :=
  frames.foldl State.send s

/-- ClearBuffer() (R13). -/
def State.clearBuffer (s : State) : State :=
  s.log .clearBuffer

/-- The transport's code and bytes for one answer to Receive(n): at most n bytes (R45).  No bytes is a timeout, rc 0;
an error is rc -1. -/
def answerRc (n : Nat) : Answer → Int
  | .bytes bs => ((bs.take n).length : Int)
  | .error => -1

/-- The bytes of one answer to Receive(n) (R45). -/
def answerBuf (n : Nat) : Answer → Bytes
  | .bytes bs => bs.take n
  | .error => []

/-- What a Receive gives: rc, the bytes received, and the state after it. -/
structure Received where
  rc : Int
  buf : Bytes
  after : State
  deriving DecidableEq, Repr

/-- Receive(n, timeout) answered by `a`: one TX_LOG entry (R13, R29). -/
def State.receiveFrom (s : State) (a : Answer) (n timeoutMs : Nat) : Received where
  rc := answerRc n a
  buf := answerBuf n a
  after := s.log (.receive n timeoutMs (answerRc n a) (answerBuf n a))

/-- The transport's next answer: the next of `rx`, else a free one (R35, R45; log 6). -/
def State.nextAnswer (s : State) : Answer :=
  match s.rx with
  | a :: _ => a
  | [] => Config.freeAnswer s.draws

/-- The state after an answer has been taken (log 6). -/
def State.dropAnswer (s : State) : State :=
  match s.rx with
  | _ :: rest => { s with rx := rest }
  | [] => { s with draws := s.draws + 1 }

/-- Receive(n, timeout) (R13, R45). -/
def State.receive (s : State) (n timeoutMs : Nat) : Received :=
  s.dropAnswer.receiveFrom s.nextAnswer n timeoutMs

/-! ## How an operation ends (R220, R225) -/

/-- Add a fault to the set FAULTS (R28). -/
def insertFault (fs : List StickyFault) (f : StickyFault) : List StickyFault :=
  if f ∈ fs then fs else fs ++ [f]

/-- `fault F(info)`: the one way to take a fault (R13, R222, R225).  FAULTS gets the fault; nothing else of the spec's
state changes, no control transfers and nothing is saved, so there is no return from it (R226).  The operation ends
without a status. -/
def State.raise (s : State) (f : StickyFault) : State :=
  { s with faults := insertFault s.faults f, op := .idle, ret := none }

/-- `return s`: the operation ends with a status for the host (R13, R220). -/
def State.reply (s : State) (st : Status) : State :=
  { s with op := .idle, ret := some st }

/-- The operation goes on waiting as `p` (R229). -/
def State.await (s : State) (p : Progress) : State :=
  { s with op := p, ret := none }

/-- The refusal mark (R37): REFUSED and nothing else of the spec's state changes. -/
def State.markRefused (s : State) : State :=
  { s with refused := true, ret := none }

/-- The end of one operation: a status and the state it leaves, a fault, or a wait.  A fault carries no state, so every
fault is precise (R225). -/
inductive OpEnd where
  | reply (st : Status) (s : State)
  | fault (f : StickyFault)
  | await (p : Progress) (s : State)
  deriving DecidableEq, Repr

/-- The state after an operation issued in `s` has come to an end. -/
def State.conclude (s : State) : OpEnd → State
  | .reply st s' => s'.reply st
  | .fault f => s.raise f
  | .await p s' => s'.await p

/-! ## Register writes and hazards (R121, R243, R244) -/

/-- A mask write is legal: four bytes whose decoded value is 2^k - 1 (R121, R244). -/
def maskLegal : Bytes → Bool
  | [m0, m1, m2, m3] => isMask (maskdecode m0 m1 m2 m3)
  | _ => false

/-- wrhazard(reg, data): the host-write hazard check, mask before frequency (R121, R223). -/
def wrhazard (fam : Family) (reg : Byte) (data : Bytes) : Option StickyFault :=
  if reg = fam.ticketMaskReg ∧ maskLegal data = false then some (.hazardMask data)
  else if reg = fam.pll0Reg then some (.hazardFreqData data)
  else none

/-- WRREG (R121). -/
def writeRegister (s : State) (g : Group) (chip reg : Byte) (data : Bytes) : OpEnd :=
  if data.length ≠ 4 then .fault (.operand (.bytes data))
  else match wrhazard s.cfg.family reg data with
    | some f => .fault f
    | none => .reply (.ok .none) (s.send (writeFrame s.cfg.wire g chip reg data))

/-- The host-write hazard check of a raw command frame: only a register write with a register byte has one (R120). -/
def rawHazard (c : Cfg) (cmd : BitVec 4) (p : Bytes) : Option StickyFault :=
  match p with
  | _ :: reg :: data => if cmd = c.wire.cmdWrite then wrhazard c.family reg data else none
  | _ => none

/-- The command code that a number is; a number that is none of the four is outside the operand's domain (R75). -/
def commandCode (w : Wire) (n : Nat) : Option (BitVec 4) :=
  [w.cmdSetaddr, w.cmdWrite, w.cmdRead, w.cmdInactive].find? fun c => c.toNat == n

/-- CMDFRAME (R120). -/
def commandFrame (s : State) (g : Group) (cmd : Nat) (p : Bytes) : OpEnd :=
  match commandCode s.cfg.wire cmd with
  | none => .fault (.operand (.nat cmd))
  | some code =>
    if code = s.cfg.wire.cmdSetaddr ∧ g = .all then .fault (.operand (.nat cmd))
    else if p.length > 252 then .fault (.operand (.nat p.length))
    else match rawHazard s.cfg code p with
      | some f => .fault f
      | none => .reply (.ok .none) (s.send (cmdframe s.cfg.wire g code p))

/-- Send one frame and return OK: the operations with no check of their own (R122 to R124, R126, R127). -/
def sendFrame (s : State) (frame : Bytes) : OpEnd :=
  .reply (.ok .none) (s.send frame)

/-! ## Job frames (R131) -/

/-- The next job-id, (JOBID_CTR + JOBID_STEP) mod JOBID_MOD (R22). -/
def nextJobId (c : Cfg) (ctr : Byte) : Byte :=
  BitVec.ofNat 8 (natMod (ctr.toNat + c.jobidStep.toNat) c.jobidMod)

/-- JOBFRAME (R131). -/
def sendJob (s : State) (g : Group) (job : JobDesc) : OpEnd :=
  if (job.k ≠ 1 ∧ job.k ≠ 4) ∨ job.midstates.length ≠ job.k then .fault (.operand (.nat job.k))
  else
    let id := nextJobId s.cfg s.jobidCtr
    .reply (.ok .none) (({ s with jobidCtr := id }).send (jobframe s.cfg.wire s.cfg.jobHeaderCmd g (jobpayload id job)))

/-! ## Responses (R150, R151) -/

/-- The verdict of RECV_RESULT on rc and the bytes received (R150). -/
def resultVerdict (c : Cfg) (rc : Int) (buf : Bytes) : Status :=
  if rc = 0 then .noneTimeout
  else if rc = -1 then .noneTransport
  else if rc ≠ c.resultLen then .noneLength rc
  else if slice buf 0 2 ≠ respBytes c.wire then .nonePreamble (byteAt buf 0) (byteAt buf 1)
  else if crc5 c.wire (slice buf 2 c.resultLen) ≠ 0 then .noneCrc
  else if c.jobidMod ≤ (byteAt buf 7 &&& 0xFC).toNat then .noneProtocol (byteAt buf 7 &&& 0xFC)
  else .result (byteAt buf 7 &&& 0xFC) (byteAt buf 7 &&& 0x03) (slice buf 2 6)
    (le32 (byteAt buf 2) (byteAt buf 3) (byteAt buf 4) (byteAt buf 5))

/-- The verdicts after which RECV_RESULT clears the receive buffer (R150, R225). -/
def clearsBuffer : Status → Bool
  | .noneLength _ => true
  | .nonePreamble _ _ => true
  | .noneCrc => true
  | _ => false

/-- RECV_RESULT after its Receive (R150). -/
def finishReceive (c : Cfg) (r : Received) : OpEnd :=
  let st := resultVerdict c r.rc r.buf
  .reply st (if clearsBuffer st then r.after.clearBuffer else r.after)

/-- CHECK_CHIPID rc, buf (R151). -/
def chipidVerdict (c : Cfg) (rc : Int) (buf : Bytes) : Status :=
  if rc ≠ c.family.chipidRespLen then .noneLength rc
  else if slice buf 0 2 ≠ respBytes c.wire then .nonePreamble (byteAt buf 0) (byteAt buf 1)
  else if byteAt buf 2 ≠ hiByte c.family.chipId ∨ byteAt buf 3 ≠ loByte c.family.chipId then
    .noneChipid (byteAt buf 2) (byteAt buf 3)
  else if crc5 c.wire (slice buf 2 c.family.chipidRespLen) ≠ 0 then .noneCrc
  else .ok .none

/-! ## Frequency writes (R128, R170, R172) -/

/-- Who calls SETFREQ (R172). -/
inductive Caller where
  | host
  | ramp
  deriving DecidableEq, Repr

/-- The host's hazard test of a frequency write: the ramp is busy, or `f` is more than one step from RAMP_CUR (R128,
R172, R243). -/
def freqHazard (s : State) (f : Freq) : Bool :=
  s.rampState != .idle || decide (s.cfg.rampStep < absDiff f s.rampCur)

/-- PLL_LOOKUP f (R170). -/
def lookupFreq (s : State) (f : Freq) : OpEnd :=
  if f < 0 then .fault (.operand (.freq f))
  else match pllLookup s.cfg.pllTable f with
    | none => .reply .errPllRange s
    | some e => .reply (.ok (.entry e.fbDivider e.refdiv e.postdiv1 e.postdiv2 e.freq)) s

/-- SETFREQ f, by the host or by the ramp (R172). -/
def setFrequency (caller : Caller) (s : State) (f : Freq) : OpEnd :=
  if s.cfg.family.hasFreqReg = false then .reply .errUnsupported s
  else if f < 0 then .fault (.operand (.freq f))
  else match pllLookup s.cfg.pllTable f with
    | none => .reply .errPllRange s
    | some e =>
      if caller = .host ∧ freqHazard s f = true then .fault (.hazardFreq f)
      else .reply (.ok (.freq e.freq)) (s.send (freqFrame s.cfg e))

/-- FREQFRAME e, issued by the host (R128).  A negative frequency is outside the operand's domain (R75, R223;
DEDUCED, log 11). -/
def frequencyFrame (s : State) (e : PllEntry) : OpEnd :=
  if e.freq < 0 then .fault (.operand (.freq e.freq))
  else if s.cfg.family.hasFreqReg = false then .reply .errUnsupported s
  else if freqHazard s e.freq = true then .fault (.hazardFreq e.freq)
  else .reply (.ok .none) (s.send (freqFrame s.cfg e))

/-! ## The ramp (44_ramp.md) -/

/-- RAMP_DIR as a number (R25). -/
def dirUnit : RampDir → Freq
  | .down => -1
  | .none => 0
  | .up => 1

/-- RAMP_REQ f (R191). -/
def requestRamp (s : State) (f : Freq) : OpEnd :=
  if f < 0 then .fault (.operand (.freq f))
  else if s.rampState ≠ .idle then .reply .errBusy s
  else if absDiff s.rampCur f ≤ s.cfg.eps then .reply (.ok .none) s
  else .reply (.ok .none)
    { s with rampTgt := f, rampDir := (if s.rampCur < f then .up else .down), rampState := .stepping }

/-- RAMP f (R196): the request, and then the wait at its loop as `p` unless the ramp is idle already; `back` is the
status to return for the request's own. -/
def beginRamp (s : State) (f : Freq) (p : Progress) (back : Status → Status) : OpEnd :=
  match requestRamp s f with
  | .fault fl => .fault fl
  | .await q s' => .await q s'
  | .reply st s' => if isOk st && rampBusy s' then .await p s' else .reply (back st) s'

/-- The exit of RAMP's loop: when the ramp is idle, a waiting RAMP returns ramp_status, and an INIT waiting for its
RAMP returns its count (R132, R196). -/
def State.resume (s : State) : State :=
  match s.op with
  | .ramp st => if s.rampState = .idle then s.reply st else s
  | .initRamp n _ => if s.rampState = .idle then s.reply (.ok (.count n)) else s
  | .idle => s
  | .enumCount _ => s
  | .initEnum _ _ _ _ => s

/-- Set ramp_status in a waiting RAMP (R193). -/
def setRampStatus (st : Status) : Progress → Progress
  | .ramp _ => .ramp st
  | .initRamp n _ => .initRamp n st
  | .idle => .idle
  | .enumCount n => .enumCount n
  | .initEnum f n d c => .initEnum f n d c

/-- The value the sequencer writes next (R192, R193). -/
def State.rampNextValue (s : State) : Freq :=
  rampNext s.cfg.rampStep s.rampCur s.rampTgt (s.rampDir == .up) (dirUnit s.rampDir)

/-- The sequencer may step: RAMP_STATE = STEPPING, and no host operation but a waiting RAMP is in progress (R190,
R229). -/
def stepEnabled (s : State) : Bool :=
  s.rampState == .stepping &&
    match s.op with
    | .idle => true
    | .ramp _ => true
    | .initRamp _ _ => true
    | .enumCount _ => false
    | .initEnum _ _ _ _ => false

/-- RAMP_STEP when it is enabled (R193). -/
def sequencerStep (s : State) : State :=
  let nxt := s.rampNextValue
  match setFrequency .ramp s nxt with
  | .fault f => s.raise f
  | .await p s' => s'.await p
  | .reply st s' =>
    if isOk st = false ∧ s.cfg.rampOnFail = .abort then
      State.resume { s' with
        rampTgt := s.rampCur, rampDir := .none, rampState := .idle, op := setRampStatus .errRampAborted s.op }
    else { s' with rampCur := nxt, rampState := .settling }

/-- The settle timer may fire: RAMP_STATE = SETTLING (R190, R229). -/
def settleEnabled (s : State) : Bool := s.rampState == .settling

/-- RAMP_SETTLED when it is enabled (R194). -/
def settleEvent (s : State) : State :=
  State.resume
    (if s.rampCur = s.rampTgt then { s.log .settle with rampDir := .none, rampState := .idle }
     else { s.log .settle with rampState := .stepping })

/-! ## Enumeration and INIT (R132, R152) -/

/-- What INIT does once it has counted at least one chip (R132): the rest of its frames, then RAMP f. -/
def initTail (s : State) (f : Freq) (chipCount : Nat) (d : Word32) (count : Nat) : OpEnd :=
  let frames :=
    [inactiveFrame s.cfg.wire .all] ++ addrFrames s.cfg.wire chipCount ++ s.cfg.familyInitFrames ++ [maskFrame s.cfg d] ++
      s.cfg.baudFrames
  beginRamp (s.sendAll frames) f (.initRamp count (.ok .none)) fun _ => .ok (.count count)

/-- INIT f, chip_count, d up to its first wait (R132). -/
def beginInit (s : State) (f : Freq) (chipCount : Nat) (d : Word32) : OpEnd :=
  if f < 0 then .fault (.operand (.freq f))
  else if chipCount = 0 ∨ chipCount > 256 then .fault (.operand (.nat chipCount))
  else if s.rampState ≠ .idle then .reply .errBusy s
  else .await (.initEnum f chipCount d 0) (s.send (readFrame s.cfg.wire .all 0x00 0x00))

/-- ADDRASSIGN n (R125). -/
def assignAddresses (s : State) (n : Nat) : OpEnd :=
  if n = 0 ∨ n > 256 then .fault (.operand (.nat n))
  else .reply (.ok .none) (s.sendAll (addrFrames s.cfg.wire n))

/-- The count after one answered Receive of the enumeration (R152). -/
def countAnswer (c : Cfg) (r : Received) (count : Nat) : Nat :=
  if chipidVerdict c r.rc r.buf = .ok .none then count + 1 else count

/-- One round of the enumeration loop: the transport answers the pending Receive (R152, R132). -/
def enumStep (s : State) : State :=
  let r := s.receive s.cfg.family.chipidRespLen s.cfg.enumTimeoutMs
  match s.op with
  | .enumCount count =>
    if r.rc ≤ 0 then r.after.reply (.ok (.count count))
    else r.after.await (.enumCount (countAnswer s.cfg r count))
  | .initEnum f chipCount d count =>
    if r.rc ≤ 0 then
      if count = 0 then r.after.reply .errNoChips
      else r.after.conclude (initTail r.after f chipCount d count)
    else r.after.await (.initEnum f chipCount d (countAnswer s.cfg r count))
  | .idle => s
  | .ramp _ => s
  | .initRamp _ _ => s

/-! ## Reset (R240) -/

/-- RESET: the five registers to their reset values; FAULTS, REFUSED and TX_LOG as they are. -/
def resetRegisters (s : State) : State :=
  { s with jobidCtr := 0, rampState := .idle, rampCur := s.cfg.bootFreq, rampTgt := s.cfg.bootFreq, rampDir := .none }

end Sys2Proof.Machine
end

