-- ==== Sys2Proof/Machine/Checksum.lean ====
section
/-! DEFINITION. The meanings of the pure operations: CRC5, CRC16F, REV8, POW2FLOOR, MASKVAL, MASKDECODE (40_checksum.md).  Each
returns its value and writes no state. -/

namespace Sys2Proof.Machine


/-- CRC5 bs (R100). -/
def execCrc5 (bs : Bytes) (s : State) : Host.Outcome State Fault Refusal :=
  .next (s.conclude (.reply (.ok (.u8 (crc5Byte s.cfg.wire bs))) s))

/-- CRC16F bs (R101). -/
def execCrc16f (bs : Bytes) (s : State) : Host.Outcome State Fault Refusal :=
  .next (s.conclude (.reply (.ok (.u16 (crc16 s.cfg.wire bs))) s))

/-- REV8 b (R102). -/
def execRev8 (b : Byte) (s : State) : Host.Outcome State Fault Refusal :=
  .next (s.conclude (.reply (.ok (.u8 (rev8 b))) s))

/-- POW2FLOOR d (R103). -/
def execPow2floor (d : Word32) (s : State) : Host.Outcome State Fault Refusal :=
  .next (s.conclude (.reply (.ok (.u32 (pow2floor d))) s))

/-- MASKVAL d (R104). -/
def execMaskval (d : Word32) (s : State) : Host.Outcome State Fault Refusal :=
  .next (s.conclude (.reply (.ok (.u32 (maskval s.cfg.maskRounding d))) s))

/-- MASKDECODE m (R105). -/
def execMaskdecode (m0 m1 m2 m3 : Byte) (s : State) : Host.Outcome State Fault Refusal :=
  .next (s.conclude (.reply (.ok (.u32 (maskdecode m0 m1 m2 m3))) s))

end Sys2Proof.Machine
end

