-- ==== Sys2Proof/Machine/Frames.lean ====
section
/-! DEFINITION. The meanings of the frame compositor: CMDFRAME to INIT (41_frames.md). -/

namespace Sys2Proof.Machine


/-- CMDFRAME group, cmd, p (R120). -/
def execCmdframe (g : Group) (cmd : Nat) (p : Bytes) (s : State) : Host.Outcome State Fault Refusal :=
  .next (s.conclude (commandFrame s g cmd p))

/-- WRREG group, chip, reg, data (R121). -/
def execWrreg (g : Group) (chip reg : Byte) (data : Bytes) (s : State) : Host.Outcome State Fault Refusal :=
  .next (s.conclude (writeRegister s g chip reg data))

/-- RDREG group, chip, reg (R122). -/
def execRdreg (g : Group) (chip reg : Byte) (s : State) : Host.Outcome State Fault Refusal :=
  .next (s.conclude (sendFrame s (readFrame s.cfg.wire g chip reg)))

/-- PROBE (R123). -/
def execProbe (s : State) : Host.Outcome State Fault Refusal :=
  .next (s.conclude (sendFrame s (readFrame s.cfg.wire .all 0x00 0x00)))

/-- SETADDR addr (R124). -/
def execSetaddr (addr : Byte) (s : State) : Host.Outcome State Fault Refusal :=
  .next (s.conclude (sendFrame s (setaddrFrame s.cfg.wire addr)))

/-- ADDRASSIGN n (R125). -/
def execAddrassign (n : Nat) (s : State) : Host.Outcome State Fault Refusal :=
  .next (s.conclude (assignAddresses s n))

/-- INACTIVE (R126). -/
def execInactive (s : State) : Host.Outcome State Fault Refusal :=
  .next (s.conclude (sendFrame s (inactiveFrame s.cfg.wire .all)))

/-- DIFFMASK d (R127). -/
def execDiffmask (d : Word32) (s : State) : Host.Outcome State Fault Refusal :=
  .next (s.conclude (sendFrame s (maskFrame s.cfg d)))

/-- FREQFRAME e (R128). -/
def execFreqframe (e : PllEntry) (s : State) : Host.Outcome State Fault Refusal :=
  .next (s.conclude (frequencyFrame s e))

/-- JOBFRAME group, job (R131). -/
def execJobframe (g : Group) (job : JobDesc) (s : State) : Host.Outcome State Fault Refusal :=
  .next (s.conclude (sendJob s g job))

/-- INIT f, chip_count, d: its issue (R132).  It then waits for the transport and, in its ramp, for the settle timer; those
steps are `enumStep`, `sequencerStep` and `settleEvent` (R229). -/
def execInit (f : Freq) (chipCount : Nat) (d : Word32) (s : State) : Host.Outcome State Fault Refusal :=
  .next (s.conclude (beginInit s f chipCount d))

end Sys2Proof.Machine
end

