-- ==== Sys2Proof/Machine/Parser.lean ====
section
/-! DEFINITION. The meanings of the response parser: RECV_RESULT, CHECK_CHIPID, ENUM_COUNT (42_parser.md). -/

namespace Sys2Proof.Machine


/-- RECV_RESULT (R150), one step with its answer (R229; log 18). -/
def execRecvResult (s : State) : Host.Outcome State Fault Refusal :=
  .next (s.conclude (finishReceive s.cfg (s.receive s.cfg.resultLen s.cfg.workTimeoutMs)))

/-- CHECK_CHIPID rc, buf (R151). -/
def execCheckChipid (rc : Int) (buf : Bytes) (s : State) : Host.Outcome State Fault Refusal :=
  .next (s.conclude (.reply (chipidVerdict s.cfg rc buf) s))

/-- ENUM_COUNT: its issue, with count 0 (R152).  Each further step is one answered Receive, `enumStep` (R229). -/
def execEnumCount (s : State) : Host.Outcome State Fault Refusal :=
  .next (s.conclude (.await (.enumCount 0) s))

end Sys2Proof.Machine
end

