-- ==== Sys2Proof/Machine/Pll.lean ====
section
/-! DEFINITION. The meanings of PLL_LOOKUP and SETFREQ (43_pll.md). -/

namespace Sys2Proof.Machine


/-- PLL_LOOKUP f (R170). -/
def execPllLookup (f : Freq) (s : State) : Host.Outcome State Fault Refusal :=
  .next (s.conclude (lookupFreq s f))

/-- SETFREQ f by the host (R172). -/
def execSetfreq (f : Freq) (s : State) : Host.Outcome State Fault Refusal :=
  .next (s.conclude (setFrequency .host s f))

end Sys2Proof.Machine
end

