-- ==== Sys2Proof/Machine/Ramp.lean ====
section
/-! DEFINITION. The meanings of the ramp operations and events (44_ramp.md). -/

namespace Sys2Proof.Machine


/-- RAMP_REQ f (R191). -/
def execRampReq (f : Freq) (s : State) : Host.Outcome State Fault Refusal :=
  .next (s.conclude (requestRamp s f))

/-- RAMP_STEP (R193).  An event that is not enabled (R190, R229) does not happen: the state stays as it is (log 8). -/
def execRampStep (s : State) : Host.Outcome State Fault Refusal :=
  .next (if stepEnabled s = true then sequencerStep s else s)

/-- RAMP_SETTLED (R194).  An event that is not enabled (R190, R229) does not happen: the state stays as it is (log 8). -/
def execRampSettled (s : State) : Host.Outcome State Fault Refusal :=
  .next (if settleEnabled s = true then settleEvent s else s)

/-- RAMP f: the request and the start of its loop (R196).  It then waits; the steps of its loop are the RAMP_STEP and
RAMP_SETTLED events (R229). -/
def execRamp (f : Freq) (s : State) : Host.Outcome State Fault Refusal :=
  .next (s.conclude (beginRamp s f (.ramp (.ok .none)) id))

end Sys2Proof.Machine
end

