-- ==== Sys2Proof/Machine/System.lean ====
section
/-! DEFINITION. The meaning of RESET (70_reset_and_hazards.md). -/

namespace Sys2Proof.Machine


/-- RESET (R240). -/
def execReset (s : State) : Host.Outcome State Fault Refusal :=
  .next (s.conclude (.reply (.ok .none) (resetRegisters s)))

end Sys2Proof.Machine
end

