-- ==== Sys2Proof/Machine/Wire.lean ====
section
/-! DEFINITION. The meanings of the wire rows.  A frame row is run as the operation of the rule the opcode table gives it; a response
row is the response of its rule arriving from the transport (DESIGN CHOICE, log 3). -/

namespace Sys2Proof.Machine


/-- FRAME_SETADDR: the frame of SETADDR (R124). -/
def execFrameSetaddr (addr : Byte) (s : State) : Host.Outcome State Fault Refusal :=
  .next (s.conclude (sendFrame s (setaddrFrame s.cfg.wire addr)))

/-- FRAME_WRITE: the frame of WRREG, with its hazard check (R121). -/
def execFrameWrite (g : Group) (chip reg d0 d1 d2 d3 : Byte) (s : State) : Host.Outcome State Fault Refusal :=
  .next (s.conclude (writeRegister s g chip reg [d0, d1, d2, d3]))

/-- FRAME_READ: the frame of RDREG (R122). -/
def execFrameRead (g : Group) (chip reg : Byte) (s : State) : Host.Outcome State Fault Refusal :=
  .next (s.conclude (sendFrame s (readFrame s.cfg.wire g chip reg)))

/-- FRAME_INACTIVE: the chain-deactivate frame (R65, R126). -/
def execFrameInactive (g : Group) (s : State) : Host.Outcome State Fault Refusal :=
  .next (s.conclude (sendFrame s (inactiveFrame s.cfg.wire g)))

/-- FRAME_JOB: the job frame of JOBFRAME (R131), which allocates the job-id: the frame sent carries the next id, equal to
the frame spelled when that carries it (log 3). -/
def execFrameJob (g : Group) (f : JobFields) (s : State) : Host.Outcome State Fault Refusal :=
  .next (s.conclude (sendJob s g (fieldsJob f)))

/-- RESP_RESULT: RECV_RESULT whose Receive the transport answers with this frame (R67, R150). -/
def execRespResult (b0 b1 b2 b3 midNum idByte check : Byte) (s : State) : Host.Outcome State Fault Refusal :=
  .next (s.conclude (finishReceive s.cfg (s.receiveFrom
    (.bytes (respBytes s.cfg.wire ++ [b0, b1, b2, b3, midNum, idByte, check])) s.cfg.resultLen s.cfg.workTimeoutMs)))

/-- RESP_CHIPID: CHECK_CHIPID of this frame and its length (R68, R151). -/
def execRespChipid (body : Bytes) (s : State) : Host.Outcome State Fault Refusal :=
  .next (s.conclude
    (.reply (chipidVerdict s.cfg ((respBytes s.cfg.wire ++ body).length : Int) (respBytes s.cfg.wire ++ body)) s))

end Sys2Proof.Machine
end

