-- ==== Sys2Proof/Machine/Dispatch.lean ====
section
/-! DEFINITION. The dispatch: one arm per instruction, each one call of its meaning. -/

namespace Sys2Proof.Machine

def exec (i : Instr) (s : State) : Host.Outcome State Fault Refusal :=
  match i with
  | .frameSetaddr addr => Sys2Proof.Machine.execFrameSetaddr addr s
  | .frameWrite g chip reg d0 d1 d2 d3 => Sys2Proof.Machine.execFrameWrite g chip reg d0 d1 d2 d3 s
  | .frameRead g chip reg => Sys2Proof.Machine.execFrameRead g chip reg s
  | .frameInactive g => Sys2Proof.Machine.execFrameInactive g s
  | .frameJob g f => Sys2Proof.Machine.execFrameJob g f s
  | .respResult b0 b1 b2 b3 m x c => Sys2Proof.Machine.execRespResult b0 b1 b2 b3 m x c s
  | .respChipid body => Sys2Proof.Machine.execRespChipid body s
  | .crc5 bs => Sys2Proof.Machine.execCrc5 bs s
  | .crc16f bs => Sys2Proof.Machine.execCrc16f bs s
  | .rev8 b => Sys2Proof.Machine.execRev8 b s
  | .pow2floor d => Sys2Proof.Machine.execPow2floor d s
  | .maskval d => Sys2Proof.Machine.execMaskval d s
  | .maskdecode m0 m1 m2 m3 => Sys2Proof.Machine.execMaskdecode m0 m1 m2 m3 s
  | .cmdframe g cmd p => Sys2Proof.Machine.execCmdframe g cmd p s
  | .wrreg g chip reg data => Sys2Proof.Machine.execWrreg g chip reg data s
  | .rdreg g chip reg => Sys2Proof.Machine.execRdreg g chip reg s
  | .probe => Sys2Proof.Machine.execProbe s
  | .setaddr addr => Sys2Proof.Machine.execSetaddr addr s
  | .addrassign n => Sys2Proof.Machine.execAddrassign n s
  | .inactive => Sys2Proof.Machine.execInactive s
  | .diffmask d => Sys2Proof.Machine.execDiffmask d s
  | .freqframe e => Sys2Proof.Machine.execFreqframe e s
  | .jobframe g job => Sys2Proof.Machine.execJobframe g job s
  | .init f n d => Sys2Proof.Machine.execInit f n d s
  | .recvResult => Sys2Proof.Machine.execRecvResult s
  | .checkChipid rc buf => Sys2Proof.Machine.execCheckChipid rc buf s
  | .enumCount => Sys2Proof.Machine.execEnumCount s
  | .pllLookup f => Sys2Proof.Machine.execPllLookup f s
  | .setfreq f => Sys2Proof.Machine.execSetfreq f s
  | .rampReq f => Sys2Proof.Machine.execRampReq f s
  | .rampStep => Sys2Proof.Machine.execRampStep s
  | .rampSettled => Sys2Proof.Machine.execRampSettled s
  | .ramp f => Sys2Proof.Machine.execRamp f s
  | .reset => Sys2Proof.Machine.execReset s

end Sys2Proof.Machine
end

