-- ==== Sys2Proof/Machine/Sched.lean ====
section
/-! DEFINITION. What one step does: which agent moves (R229), and how an issued item becomes an instruction. -/

namespace Sys2Proof.Machine

/-- The operations that R222 names for F_OPERAND. -/
def operandFaultOps : List Byte := [0x10, 0x11, 0x15, 0x19, 0x1A, 0x30, 0x31, 0x40, 0x43]

/-- The operand that a decoding error finds outside its type: a group byte that is no group, or a sign byte that is none
(log 1).  The other errors find no operand there, or more bytes than operands. -/
def badOperand : DecodeError → Option OperandVal
  | .badGroup b => some (.bytes [b])
  | .badSign b => some (.bytes [b])
  | _ => none

/-- A host item that spells no operation.  An operand outside its type is F_OPERAND in the operations that R222 names (R75,
R223), but SETFREQ checks for the register first (R223, D49); no other operation faults (R222).  Anything else has no
meaning: REFUSED is set and nothing else changes (R37, R76; log 17). -/
def unreadableOp (op : Byte) (e : DecodeError) (s : State) : State :=
  match badOperand e with
  | none => s.markRefused
  | some v =>
    if op ∉ operandFaultOps then s.markRefused
    else if op = 0x31 ∧ s.cfg.family.hasFreqReg = false then s.reply .errUnsupported
    else s.raise (.operand v)

/-- An issued item that spells no instruction.  A frame with a reserved header (R70), a malformed frame or response, and an
empty item have no meaning: REFUSED is set and nothing else changes (R37; log 17). -/
def unreadable (it : Item) (e : DecodeError) (s : State) : State :=
  match it with
  | .host [] => s.markRefused
  | .host (op :: _) => unreadableOp op e s
  | .frame _ => s.markRefused
  | .result _ => s.markRefused
  | .chipid _ => s.markRefused

/-- An issued item (its removal from the port already done): the instruction it spells under the configuration is
executed. -/
def issue (it : Item) (s : State) : Host.Outcome State Fault Refusal :=
  match decodeUnder s.cfg it with
  | .ok i => exec i s
  | .error e => .next (unreadable it e s)

/-- The event of the sequencer or of the settle timer, where one is due; else nothing happens (R229, R250). -/
def rampEvent (s : State) : Host.Outcome State Fault Refusal :=
  match s.rampState with
  | .idle => .next s.resume
  | .stepping => exec .rampStep s
  | .settling => exec .rampSettled s

/-- The transport answers the pending Receive of an enumeration, or, where the settle timer could fire as well, the
scheduler's data says which (R229; log 8).  With no choice left the timer fires, so that after finitely many answers an
enabled settle event happens (R250). -/
def awaitAnswer (s : State) : Host.Outcome State Fault Refusal :=
  if settleEnabled s = false then .next (enumStep s)
  else match s.timerFirst with
    | [] => exec .rampSettled s
    | false :: rest => .next (enumStep { s with timerFirst := rest })
    | true :: rest => exec .rampSettled { s with timerFirst := rest }

/-- The next event while nothing is issued: the transport's answer to a host operation that waits for one, else the
ramp's next event (R229). -/
def progress (s : State) : Host.Outcome State Fault Refusal :=
  match s.op with
  | .enumCount _ => awaitAnswer s
  | .initEnum _ _ _ _ => awaitAnswer s
  | .idle => rampEvent s
  | .ramp _ => rampEvent s
  | .initRamp _ _ => rampEvent s

/-- One event of one agent (R229).  With no host operation in progress the next item of the port is issued; with none
there, an enabled event of the sequencer or the timer happens (weak fairness, R250), else the block waits for the host
(R241).  While a host operation waits, its own next event happens. -/
def oneStep (s : State) : Host.Outcome State Fault Refusal :=
  if s.op = .idle then
    match s.port with
    | it :: rest => issue it { s with port := rest }
    | [] => rampEvent s
  else progress s

/-- `s` with the item of a table word at the head of the port, and no host operation in progress, so that the next step
issues it. -/
def placeWord (s : State) (nbits w : Nat) : State :=
  { s with port := tableItem nbits w :: s.port, op := .idle }

end Sys2Proof.Machine
end

