-- ==== Sys2Proof/Machine/Step.lean ====
section
/-! DEFINITION. The step, and the placing of a table word where the step takes its next instruction. -/

namespace Sys2Proof.Machine

/-- One step of the machine: one event of one agent (R229). -/
def step (s : State) : Host.Outcome State Fault Refusal :=
  oneStep s

/-- `s` with the instruction of a table word next to be issued (log 2). -/
def State.withFetchWord (s : State) (nbits w : Nat) : State :=
  placeWord s nbits w

end Sys2Proof.Machine
end

