-- ==== Sys2Proof/Safety.lean ====
section
/-! DEFINITION. What counts as a safe run, and the invariants that claims are stated with. -/

namespace Sys2Proof

open Machine

/-- A run is clean at `s`: no fault was found and nothing was refused (R225). -/
def Clean (s : State) : Prop :=
  s.faults = [] ∧ s.refused = false

/-! ## How statements name the state after an operation -/

/-- The state after an operation returned `st` and wrote nothing: nothing else differs from `s`. -/
def returned (s : State) (st : Status) : State :=
  { s with op := .idle, ret := some st }

/-- The state after an operation sent `frames` in order and returned `st`: nothing else differs from `s`. -/
def sentThen (s : State) (frames : List Bytes) (st : Status) : State :=
  { s with txLog := s.txLog ++ frames.map .send, op := .idle, ret := some st }

/-- The state after an operation faulted with `f`: FAULTS has `f`, no status is returned, and nothing else differs from
`s` (R225). -/
def faultedWith (s : State) (f : StickyFault) : State :=
  { s with faults := if f ∈ s.faults then s.faults else s.faults ++ [f], op := .idle, ret := none }

/-- The bytes of a command frame with header `h` and payload `p`, written out from R62. -/
def commandBytes (h : Byte) (p : Bytes) : Bytes :=
  [0x55, 0xAA, h, BitVec.ofNat 8 (p.length + 3)] ++ p ++ [crc5Byte Config.wire (h :: BitVec.ofNat 8 (p.length + 3) :: p)]

/-- A header byte for one chip or for all (R69). -/
def byGroup (g : Group) (single all : Byte) : Byte :=
  match g with
  | .single => single
  | .all => all

/-- The TX_LOG entry of a Receive(n, timeout) answered by `a` (R29, R45). -/
def receivedEntry (n timeoutMs : Nat) (a : Answer) : TxEvent :=
  .receive n timeoutMs (answerRc n a) (answerBuf n a)

/-- How many of the answers are valid chip-ID responses (R151, R152). -/
def validCount (c : Cfg) (answers : List Answer) : Nat :=
  (answers.filter fun a =>
    chipidVerdict c (answerRc c.family.chipidRespLen a) (answerBuf c.family.chipidRespLen a) == .ok .none).length

/-- The state after `k` steps; none where one of them stops. -/
def afterSteps : Nat → State → Option State
  | 0, s => some s
  | k + 1, s =>
    match step s with
    | .next t => afterSteps k t
    | .fault _ => none
    | .refused _ => none

/-- The step from `s` to `t` issues the instruction `i` from the head of the port. -/
def Issues (s : State) (i : Instr) (t : State) : Prop :=
  ∃ it rest, s.op = .idle ∧ s.port = it :: rest ∧ decodeUnder s.cfg it = .ok i ∧
    exec i { s with port := rest } = .next t

/-- The operation numbers of R73. -/
def opNumbers : List Byte :=
  [0x01, 0x02, 0x03, 0x04, 0x05, 0x06, 0x10, 0x11, 0x12, 0x13, 0x14, 0x15, 0x16, 0x17, 0x18, 0x19, 0x1A, 0x20, 0x21, 0x22] ++
    [0x30, 0x31, 0x40, 0x41, 0x42, 0x43, 0x7F]

/-- The state after a list of instructions, each executed in turn; none where one of them stops. -/
def execAll : List Instr → State → Option State
  | [], s => some s
  | i :: rest, s =>
    match exec i s with
    | .next t => execAll rest t
    | .fault _ => none
    | .refused _ => none

/-! ## Invariants -/

/-- JOBID_CTR is a multiple of JOBID_STEP in [0, JOBID_MOD) (R22). -/
def JobIdOk (s : State) : Prop :=
  s.jobidCtr.toNat % s.cfg.jobidStep.toNat = 0 ∧ s.jobidCtr.toNat < s.cfg.jobidMod

/-- The ramp registers agree with RAMP_STATE: at rest the ramp is at its target with direction 0 (R190); in a ramp the
direction points from RAMP_CUR to RAMP_TGT (R25), and a write is due only short of the target (R194). -/
def RampOk (s : State) : Prop :=
  match s.rampState with
  | .idle => s.rampCur = s.rampTgt ∧ s.rampDir = .none
  | .stepping => (s.rampDir = .up ∧ s.rampCur < s.rampTgt) ∨ (s.rampDir = .down ∧ s.rampTgt < s.rampCur)
  | .settling => (s.rampDir = .up ∧ s.rampCur ≤ s.rampTgt) ∨ (s.rampDir = .down ∧ s.rampTgt ≤ s.rampCur)

/-- The ramp's frequencies are frequencies (R12): neither is negative (R225). -/
def FreqsOk (s : State) : Prop :=
  0 ≤ s.rampCur ∧ 0 ≤ s.rampTgt

/-- A waiting operation holds what its checks let through: INIT's operands are in their domains and it enumerates only
while the ramp is idle; a RAMP waits only while the ramp runs, with ramp_status OK (R132, R196). -/
def ProgressOk (s : State) : Prop :=
  match s.op with
  | .idle => True
  | .enumCount _ => True
  | .initEnum f chipCount _ _ => 0 ≤ f ∧ 1 ≤ chipCount ∧ chipCount ≤ 256 ∧ s.rampState = .idle
  | .ramp st => s.rampState ≠ .idle ∧ st = .ok .none
  | .initRamp _ st => s.rampState ≠ .idle ∧ st = .ok .none

/-- The invariant of the machine's registers. -/
def Inv (s : State) : Prop :=
  JobIdOk s ∧ RampOk s ∧ FreqsOk s ∧ ProgressOk s ∧ s.faults.Nodup

/-- Every frame sent so far passes the checks of R133. -/
def LogFramesOk (s : State) : Prop :=
  ∀ f, TxEvent.send f ∈ s.txLog → frameOk s.cfg.wire f = true

/-- A frame, read as the chips read it (R71), does not write the mask register with anything but 2^k - 1 (R244). -/
def MaskSafe (c : Cfg) (f : Bytes) : Prop :=
  ∀ hc g chip data, parseFrame c.wire hc f = .ok (.cmd g c.wire.cmdWrite (chip :: c.family.ticketMaskReg :: data)) →
    maskLegal data = true

/-- Every frame sent so far is mask-safe (R244). -/
def LogMaskSafe (s : State) : Prop :=
  ∀ f, TxEvent.send f ∈ s.txLog → MaskSafe s.cfg f

end Sys2Proof
end

