-- ==== Sys2Proof/Certificates/Slice0/Obligations.lean ====
section
/-! DEFINITION. The statements. -/

open Sys2Proof Sys2Proof.Machine

/-! ## Steps and decoding -/

/-- With no host operation in progress, a step issues the item at the head of the port: it executes the instruction the
item decodes to, on the state with the item taken from the port.  That operations come from a port, and that its head is
issued before a due ramp event, are the model's choice (logs 2 and 8). -/
def Obligations.StepRunsDecodedInstruction : Prop :=
  ∀ (s : State) (it : Item) (rest : List Item) (i : Instr),
    s.op = .idle → s.port = it :: rest → decodeUnder s.cfg it = .ok i →
      step s = exec i { s with port := rest }

/-- A table word placed for fetching is the very next instruction, and placing it changes nothing it sees but the
operation in progress (the model's choice, log 2).  The table is written for the wire values of R7. -/
def Obligations.PlacedWordRunsNext : Prop :=
  ∀ (s : State) (nbits w : Nat) (i : Instr),
    s.cfg.wire = Config.wire → decodeTableWord nbits w = some i →
      step (s.withFetchWord nbits w) = exec i { s with op := .idle }

/-- An operation number outside R73, whatever bytes follow it, sets REFUSED and changes no other piece of the spec's
state (R76). -/
def Obligations.UnknownOperationOnlySetsRefused : Prop :=
  ∀ (s : State) (op : Byte) (bs : Bytes) (rest : List Item), op ∉ opNumbers →
    s.op = .idle → s.port = .host (op :: bs) :: rest →
    ∃ t, step s = .next t ∧ t.refused = true ∧ t.jobidCtr = s.jobidCtr ∧ t.rampState = s.rampState ∧
      t.rampCur = s.rampCur ∧ t.rampTgt = s.rampTgt ∧ t.rampDir = s.rampDir ∧ t.faults = s.faults ∧
      t.txLog = s.txLog ∧ t.cfg = s.cfg ∧ t.op = s.op

/-- Items that spell no instruction do not stop the machine (the byte form and what an item outside it does are the
model's choices, logs 1 and 17).  A group or sign operand outside its type is F_OPERAND in the operations that R222 names,
but SETFREQ without the register returns ERR_UNSUPPORTED first (R75, R222, R223).  No other operation faults: anything else
that spells nothing only sets REFUSED, as does an item of another kind (R37, R222). -/
def Obligations.UnreadableItemsFaultOrAreRefused : Prop :=
  ∀ (s : State) (rest : List Item), s.op = .idle →
    (∀ (op b : Byte) (more : Bytes), op ∈ ([0x10, 0x11, 0x19] : List Byte) → b ≠ s.cfg.wire.groupSingle →
      b ≠ s.cfg.wire.groupAll → s.port = .host (op :: b :: more) :: rest →
      step s = .next (faultedWith { s with port := rest } (.operand (.bytes [b])))) ∧
    (∀ (op b : Byte) (more : Bytes), op ∈ ([0x1A, 0x30, 0x31, 0x40, 0x43] : List Byte) → 1 < b.toNat →
      s.port = .host (op :: b :: more) :: rest →
      step s = .next
        (if op = 0x31 ∧ s.cfg.family.hasFreqReg = false then returned { s with port := rest } .errUnsupported
        else faultedWith { s with port := rest } (.operand (.bytes [b])))) ∧
    (∀ (op : Byte) (more : Bytes), op ∉ ([0x10, 0x11, 0x15, 0x19, 0x1A, 0x30, 0x31, 0x40, 0x43] : List Byte) →
      s.port = .host (op :: more) :: rest → (∀ i, decodeUnder s.cfg (.host (op :: more)) ≠ .ok i) →
      step s = .next { s with port := rest, refused := true, ret := none }) ∧
    (∀ bs : Bytes, s.port = .host bs :: rest →
      (decodeUnder s.cfg (.host bs) = .error .truncated ∨ decodeUnder s.cfg (.host bs) = .error .trailing) →
      step s = .next { s with port := rest, refused := true, ret := none }) ∧
    (∀ it : Item, (∀ bs, it ≠ .host bs) → s.port = it :: rest → (∀ i, decodeUnder s.cfg it ≠ .ok i) →
      step s = .next { s with port := rest, refused := true, ret := none })

/-- A frame spells an instruction only with a header that the block composes under the configuration, which with the
values of R7 is one of seven or a job header under JOB_HEADER_CMD: every other header is reserved and rejected (R69,
R70). -/
def Obligations.ReservedHeadersSpellNothing : Prop :=
  ∀ (c : Cfg) (bs : Bytes) (i : Instr), decodeUnder c (.frame bs) = .ok i →
    ∃ h : Byte, bs[2]? = some h ∧ h ∈ composedHeaders c.wire c.jobHeaderCmd ∧
      (c.wire = Config.wire →
        h ∈ [0x40, 0x41, 0x51, 0x42, 0x52, 0x43, 0x53, 0x20 ||| c.jobHeaderCmd.setWidth 8, 0x30 ||| c.jobHeaderCmd.setWidth 8])

/-- While a host operation is in progress the host issues nothing: the port is left as it is (R229). -/
def Obligations.HostWaitsForTheOperationInProgress : Prop :=
  ∀ (s t : State), s.op ≠ .idle → step s = .next t → t.port = s.port

/-- Words written out from the spec's encodings decode to what they stand for (R62, R64, R67, R68, R73). -/
def Obligations.SpecWordsDecode : Prop :=
  decode (.frame [0x55, 0xAA, 0x40, 0x05, 0x04, 0x00, 0x03]) = .ok (.frameSetaddr 0x04) ∧
  decode (.frame [0x55, 0xAA, 0x51, 0x09, 0x00, 0xA4, 0x90, 0x00, 0xFF, 0xFF, 0x1C]) =
    .ok (.frameWrite .all 0x00 0xA4 0x90 0x00 0xFF 0xFF) ∧
  decode (.frame [0x55, 0xAA, 0x52, 0x05, 0x00, 0x00, 0x0A]) = .ok (.frameRead .all 0x00 0x00) ∧
  decode (.frame [0x55, 0xAA, 0x50, 0x05, 0x00, 0x00, 0x00]) = .error (.reservedHeader 0x50) ∧
  decode (.result [0xAA, 0x55, 0x78, 0x56, 0x34, 0x12, 0x00, 0x05, 0x1F]) =
    .ok (.respResult 0x78 0x56 0x34 0x12 0x00 0x05 0x1F) ∧
  decode (.host [0x13]) = .ok .probe ∧ decode (.host [0x7F]) = .ok .reset

/-! ## Encoding -/

/-- Decoding the encoding of any well-formed instruction gives that instruction back, under every configuration with the
wire values of R7: whatever JOB_HEADER_CMD is. -/
def Obligations.DecodeInvertsEncode : Prop :=
  ∀ (c : Cfg) (i : Instr), c.wire = Config.wire → i.wf = true → decodeUnder c (encodeUnder c i) = .ok i

/-- Whatever decodes is well formed. -/
def Obligations.DecodedInstructionsAreWellFormed : Prop :=
  ∀ (c : Cfg) (it : Item) (i : Instr), decodeUnder c it = .ok i → i.wf = true

/-- Every command frame and every job frame that fits its length byte reads back to its group, code and payload, by the
length byte and the checks of R71, with the wire values of R7. -/
def Obligations.ComposedFramesReadBack : Prop :=
  (∀ (hc : BitVec 4) (g : Group) (cmd : BitVec 4) (p : Bytes),
    cmd.toNat ≤ 3 → ¬(cmd = 0 ∧ g = .all) → p.length ≤ 252 →
    parseFrame Config.wire hc (cmdframe Config.wire g cmd p) = .ok (.cmd g cmd p)) ∧
  (∀ (hc : BitVec 4) (g : Group) (p : Bytes), p.length ≤ 251 →
    parseFrame Config.wire hc (jobframe Config.wire hc g p) = .ok (.job g p))

/-- The header values the block composes are the nine of R69. -/
def Obligations.ComposedHeadersAreTheNine : Prop :=
  ∀ (w : Wire) (h : Byte), w = Config.wire →
    (((∃ g cmd, cmd ∈ [w.cmdSetaddr, w.cmdWrite, w.cmdRead, w.cmdInactive] ∧
        ¬(cmd = w.cmdSetaddr ∧ g = .all) ∧ h = header w w.typeCmd g cmd) ∨
      (∃ g, h = header w w.typeJob g Config.defaultJobHeaderCmd)) ↔
    h ∈ ([0x40, 0x41, 0x51, 0x42, 0x52, 0x43, 0x53, 0x21, 0x31] : List Byte)) ∧
    (h ∈ composedHeaders w Config.defaultJobHeaderCmd ↔
      h ∈ ([0x40, 0x41, 0x51, 0x42, 0x52, 0x43, 0x53, 0x21, 0x31] : List Byte))

/-! ## Checksums and bits -/

/-- CRC5 runs the register of R100 over the bits of the sequence, most significant bit first, and returns it
zero-extended; it writes no state.  With the polynomial of R7 one bit through the register is the bit-serial form, and the
residue law holds: a sender that puts the CRC of everything before it into the low five bits of the last byte gets CRC 0
(R100). -/
def Obligations.Crc5RunsItsRegister : Prop :=
  (∀ (bs : Bytes) (s : State),
    exec (.crc5 bs) s = .next (returned s (.ok (.u8
      (((bs.flatMap fun b => (List.range 8).map fun k => b.getLsbD (7 - k)).foldl
        (fun (r : BitVec 5) d =>
          ((r <<< 1) &&& 0x1F) ^^^ (if (xor (r.getLsbD 4) d) = true then s.cfg.wire.crc5Poly else 0))
        s.cfg.wire.crc5Init).setWidth 8))))) ∧
  (Config.wire.crc5Poly = 0x05 ∧ Config.wire.crc5Init = 0x1F) ∧
  (∀ (w : Wire) (r : BitVec 5) (d : Bool), w.crc5Poly = 0x05 →
    (crc5Bit w r d).getLsbD 0 = xor (r.getLsbD 4) d ∧ (crc5Bit w r d).getLsbD 1 = r.getLsbD 0 ∧
    (crc5Bit w r d).getLsbD 2 = xor (r.getLsbD 1) (xor (r.getLsbD 4) d) ∧
    (crc5Bit w r d).getLsbD 3 = r.getLsbD 2 ∧ (crc5Bit w r d).getLsbD 4 = r.getLsbD 3) ∧
  (∀ (m : Bytes) (top : BitVec 3) (s : State),
    exec (.crc5 (m ++ [top ++ crc5Bits s.cfg.wire (m.flatMap bitsMsb ++ [top.getLsbD 2, top.getLsbD 1, top.getLsbD 0])])) s =
      .next (returned s (.ok (.u8 0))))

/-- CRC16F runs the register of R101 over the bytes and returns it; it writes no state.  The parameters of R7 are those of
CRC16/CCITT-FALSE (R101). -/
def Obligations.Crc16RunsItsRegister : Prop :=
  (∀ (bs : Bytes) (s : State),
    exec (.crc16f bs) s = .next (returned s (.ok (.u16
      (bs.foldl (fun (r : BitVec 16) (b : Byte) =>
        Nat.repeat (fun (r : BitVec 16) =>
          if r.getLsbD 15 = true then ((r <<< 1) ^^^ s.cfg.wire.crc16Poly) &&& 0xFFFF else (r <<< 1) &&& 0xFFFF) 8
          (r ^^^ ((b.setWidth 16 : BitVec 16) <<< 8))) s.cfg.wire.crc16Init ^^^ s.cfg.wire.crc16Xorout))))) ∧
  Config.wire.crc16Poly = 0x1021 ∧ Config.wire.crc16Init = 0xFFFF ∧ Config.wire.crc16Xorout = 0x0000

/-- REV8 reverses the bits of a byte, so that twice it gives the byte back (R102); it writes no state. -/
def Obligations.Rev8ReversesBits : Prop :=
  ∀ (b : Byte) (s : State), ∃ v : Byte,
    exec (.rev8 b) s = .next (returned s (.ok (.u8 v))) ∧ (∀ k < 8, v.getLsbD k = b.getLsbD (7 - k)) ∧
    exec (.rev8 v) s = .next (returned s (.ok (.u8 b)))

/-- POW2FLOOR returns 1 for 0 and otherwise the largest power of two not above its operand (R103); it writes no state. -/
def Obligations.Pow2FloorIsTheGreatestPower : Prop :=
  ∀ (d : Word32) (s : State), ∃ v : Word32,
    exec (.pow2floor d) s = .next (returned s (.ok (.u32 v))) ∧
    (d = 0 → v = 1) ∧ (d ≠ 0 → ∃ k, v.toNat = 2 ^ k ∧ v.toNat ≤ d.toNat ∧ d.toNat < 2 * v.toNat)

/-- MASKVAL returns 2^k - 1, where 2^k is the greatest power of two not above max(d, 1) under `down`, and the least one
not below it under `up` (R104); so its result m has m & (m + 1) = 0 (R107).  It writes no state. -/
def Obligations.MaskvalRoundsToAPowerLessOne : Prop :=
  ∀ (d : Word32) (s : State), ∃ (v : Word32) (k : Nat),
    exec (.maskval d) s = .next (returned s (.ok (.u32 v))) ∧ v.toNat + 1 = 2 ^ k ∧ v.toNat &&& (v.toNat + 1) = 0 ∧
    (s.cfg.maskRounding = .down → 2 ^ k ≤ max d.toNat 1 ∧ max d.toNat 1 < 2 ^ (k + 1)) ∧
    (s.cfg.maskRounding = .up → max d.toNat 1 ≤ 2 ^ k ∧ (k = 0 ∨ 2 ^ (k - 1) < max d.toNat 1))

/-- MASKDECODE joins its four bit-reversed bytes, most significant first (R105); it writes no state, and it and
`maskbytes` are mutual inverses. -/
def Obligations.MaskdecodeInvertsMaskbytes : Prop :=
  (∀ (m0 m1 m2 m3 : Byte) (s : State),
    exec (.maskdecode m0 m1 m2 m3) s = .next (returned s (.ok (.u32
      (((rev8 m0).setWidth 32 <<< 24) ||| ((rev8 m1).setWidth 32 <<< 16) ||| ((rev8 m2).setWidth 32 <<< 8) |||
        (rev8 m3).setWidth 32)))) ∧
    maskbytes (maskdecode m0 m1 m2 m3) = [m0, m1, m2, m3]) ∧
  (∀ v : Word32, ∃ m0 m1 m2 m3, maskbytes v = [m0, m1, m2, m3] ∧ maskdecode m0 m1 m2 m3 = v)

/-! ## Command frames -/

/-- RDREG sends the register-read frame of its operands (R122), PROBE the seven bytes `55 AA 52 05 00 00 0A` (R123),
SETADDR the set-address frame of any address (R124) and INACTIVE the bytes `55 AA 53 05 00 00 03` (R126); each returns OK
and writes TX_LOG only.  The wire values are those of R7. -/
def Obligations.FixedFramesAreSent : Prop :=
  ∀ s : State, s.cfg.wire = Config.wire →
    (∀ (g : Group) (chip reg : Byte),
      exec (.rdreg g chip reg) s = .next (sentThen s [commandBytes (byGroup g 0x42 0x52) [chip, reg]] (.ok .none))) ∧
    exec .probe s = .next (sentThen s [[0x55, 0xAA, 0x52, 0x05, 0x00, 0x00, 0x0A]] (.ok .none)) ∧
    (∀ addr : Byte, exec (.setaddr addr) s = .next (sentThen s [commandBytes 0x40 [addr, 0x00]] (.ok .none))) ∧
    exec .inactive s = .next (sentThen s [[0x55, 0xAA, 0x53, 0x05, 0x00, 0x00, 0x03]] (.ok .none))

/-- WRREG: data of another length than 4 faults F_OPERAND; a mask value that is not 2^k - 1 faults F_HAZARD_MASK; any
write to PLL0_REG faults F_HAZARD_FREQ; every other write sends its frame and returns OK (R121).  The wire values are
those of R7. -/
def Obligations.WrregChecksThenSends : Prop :=
  (∀ (g : Group) (chip reg : Byte) (data : Bytes) (s : State), data.length ≠ 4 →
    exec (.wrreg g chip reg data) s = .next (faultedWith s (.operand (.bytes data)))) ∧
  (∀ (g : Group) (chip reg d0 d1 d2 d3 : Byte) (s : State), s.cfg.wire = Config.wire →
    exec (.wrreg g chip reg [d0, d1, d2, d3]) s = .next
      (if reg = s.cfg.family.ticketMaskReg ∧
          (maskdecode d0 d1 d2 d3).toNat &&& ((maskdecode d0 d1 d2 d3).toNat + 1) ≠ 0 then
        faultedWith s (.hazardMask [d0, d1, d2, d3])
      else if reg = s.cfg.family.pll0Reg then faultedWith s (.hazardFreqData [d0, d1, d2, d3])
      else sentThen s [commandBytes (byGroup g 0x41 0x51) [chip, reg, d0, d1, d2, d3]] (.ok .none)))

/-- The command-frame and response rows of the opcode table, as instructions (the model's choice, log 3): a command frame
runs as the operation of its rule, so it sends itself, but for a write that WRREG's checks turn away; a result frame is a
RECV_RESULT that the transport answers with it; a chip-ID response is a CHECK_CHIPID of its bytes.  The wire
values are those of R7; a result frame has nine bytes whatever RESULT_LEN is (the model's choice, log 22). -/
def Obligations.WireRowsRunTheirRules : Prop :=
  ∀ s : State, s.cfg.wire = Config.wire →
    (∀ addr : Byte, exec (.frameSetaddr addr) s = .next (sentThen s [commandBytes 0x40 [addr, 0x00]] (.ok .none))) ∧
    (∀ (g : Group) (chip reg : Byte),
      exec (.frameRead g chip reg) s = .next (sentThen s [commandBytes (byGroup g 0x42 0x52) [chip, reg]] (.ok .none))) ∧
    (∀ g : Group, exec (.frameInactive g) s =
      .next (sentThen s [commandBytes (byGroup g 0x43 0x53) [0x00, 0x00]] (.ok .none))) ∧
    (∀ (g : Group) (chip reg d0 d1 d2 d3 : Byte), ∃ t,
      exec (.frameWrite g chip reg d0 d1 d2 d3) s = .next t ∧ exec (.wrreg g chip reg [d0, d1, d2, d3]) s = .next t) ∧
    (∀ b0 b1 b2 b3 m i c : Byte, ∃ t,
      exec (.respResult b0 b1 b2 b3 m i c) s = .next t ∧
      exec .recvResult { s with rx := .bytes [0xAA, 0x55, b0, b1, b2, b3, m, i, c] :: s.rx } = .next t) ∧
    (∀ body : Bytes, ∃ st,
      exec (.respChipid body) s = .next (returned s st) ∧
      exec (.checkChipid (body.length + 2) (0xAA :: 0x55 :: body)) s = .next (returned s st))

/-- CMDFRAME: its operand checks in order, then the host-write hazard check of a register write, then its frame (R120).  A
command code that is none of the four, inside u4 or not, faults.  The codes and the frame are those of R7. -/
def Obligations.CmdframeChecksThenSends : Prop :=
  ∀ (g : Group) (cmd : Nat) (p : Bytes) (s : State), s.cfg.wire = Config.wire →
    (3 < cmd → exec (.cmdframe g cmd p) s = .next (faultedWith s (.operand (.nat cmd)))) ∧
    (cmd = 0 → g = .all → exec (.cmdframe g cmd p) s = .next (faultedWith s (.operand (.nat cmd)))) ∧
    (cmd ≤ 3 → ¬(cmd = 0 ∧ g = .all) → 252 < p.length →
      exec (.cmdframe g cmd p) s = .next (faultedWith s (.operand (.nat p.length)))) ∧
    (cmd ≤ 3 → ¬(cmd = 0 ∧ g = .all) → p.length ≤ 252 → (cmd ≠ 1 ∨ p.length < 2) →
      exec (.cmdframe g cmd p) s = .next (sentThen s [commandBytes (byGroup g 0x40 0x50 ||| BitVec.ofNat 8 cmd) p] (.ok .none))) ∧
    (∀ (chip reg : Byte) (data : Bytes), cmd = 1 → p = chip :: reg :: data → p.length ≤ 252 →
      exec (.cmdframe g cmd p) s = .next
        (if reg = s.cfg.family.ticketMaskReg ∧ maskLegal data = false then faultedWith s (.hazardMask data)
        else if reg = s.cfg.family.pll0Reg then faultedWith s (.hazardFreqData data)
        else sentThen s [commandBytes (byGroup g 0x41 0x51) p] (.ok .none)))

/-- ADDRASSIGN: for n in 1..256 it sends n set-address frames in ascending order, frame i with address i * (256 // n);
the addresses fit a byte and are distinct.  Any other n faults F_OPERAND (R125).  The
wire values are those of R7. -/
def Obligations.AddrassignSpreadsTheAddresses : Prop :=
  ∀ (n : Nat) (s : State),
    (1 ≤ n → n ≤ 256 → s.cfg.wire = Config.wire →
      exec (.addrassign n) s = .next (sentThen s
        ((List.range n).map fun i => commandBytes 0x40 [BitVec.ofNat 8 (i * (256 / n)), 0x00]) (.ok .none)) ∧
      (∀ i < n, i * (256 / n) ≤ 255) ∧ (∀ i < n, ∀ j < n, i * (256 / n) = j * (256 / n) → i = j)) ∧
    (n = 0 ∨ 256 < n → exec (.addrassign n) s = .next (faultedWith s (.operand (.nat n))))

/-- DIFFMASK sends the write of the MASKVAL value to the mask register, most significant byte first and each byte
bit-reversed, and returns OK; it never faults (R127).  The wire values are those of R7. -/
def Obligations.DiffmaskWritesTheReversedMask : Prop :=
  ∀ (d m : Word32) (s : State), s.cfg.wire = Config.wire → m = maskval s.cfg.maskRounding d →
    exec (.diffmask d) s = .next (sentThen s [commandBytes 0x51
      [0x00, s.cfg.family.ticketMaskReg, rev8 (m.extractLsb' 24 8), rev8 (m.extractLsb' 16 8), rev8 (m.extractLsb' 8 8),
        rev8 (m.extractLsb' 0 8)]] (.ok .none))

/-- FREQFRAME on an entry with a frequency: ERR_UNSUPPORTED without the register; F_HAZARD_FREQ in a ramp or more than
one step from RAMP_CUR; else the PLL write of its four data bytes (R128).  The wire values are those of R7. -/
def Obligations.FreqframeChecksThenWrites : Prop :=
  ∀ (e : PllEntry) (s : State), s.cfg.wire = Config.wire → 0 ≤ e.freq →
    exec (.freqframe e) s = .next
      (if s.cfg.family.hasFreqReg = false then returned s .errUnsupported
      else if s.rampState ≠ .idle ∨ s.cfg.rampStep < |e.freq - s.rampCur| then faultedWith s (.hazardFreq e.freq)
      else sentThen s [commandBytes 0x51 [0x00, s.cfg.family.pll0Reg, freqCtrl s.cfg.family e.fbDivider e.refdiv,
        e.fbDivider, e.refdiv, pdPack s.cfg.family e.postdiv1 e.postdiv2]] (.ok .none))

/-- FREQFRAME on an entry with a negative frequency faults F_OPERAND (R75 as this model reads it: the model's choice,
log 11). -/
def Obligations.FreqframeRefusesNegativeFrequency : Prop :=
  ∀ (e : PllEntry) (s : State), e.freq < 0 →
    exec (.freqframe e) s = .next (faultedWith s (.operand (.freq e.freq)))

/-- With the family defaults, FREQ_CTRL compares fb*25 with 2400*refdiv (exactly: the model's reading, log 12), and
PD_PACK packs the low four bits of each postdivider less one (R9, R128). -/
def Obligations.DefaultPllDataBytes : Prop :=
  ∀ (fam : Family) (fb rd p1 p2 : Byte), fam.freqCtrl = ⟨[]⟩ → fam.pdPack = ⟨[]⟩ →
    freqCtrl fam fb rd = (if 2400 * rd.toNat ≤ fb.toNat * 25 then 0x50 else 0x40) ∧
    (pdPack fam p1 p2).toNat = (p1.toNat + 15) % 16 * 16 + (p2.toNat + 15) % 16

/-! ## Job frames -/

/-- JOBFRAME with k in {1, 4} and k midstates advances JOBID_CTR by JOBID_STEP modulo JOBID_MOD and sends one job frame
that carries the new id; any other k or number of midstates faults F_OPERAND and leaves JOBID_CTR (R131). -/
def Obligations.JobframeAllocatesAndSends : Prop :=
  ∀ (g : Group) (job : JobDesc) (s : State), 0 < s.cfg.jobidMod →
    ((job.k = 1 ∨ job.k = 4) → job.midstates.length = job.k →
      ∀ id : Byte, id = BitVec.ofNat 8 ((s.jobidCtr.toNat + s.cfg.jobidStep.toNat) % s.cfg.jobidMod) →
        exec (.jobframe g job) s =
          .next { sentThen s [jobframe s.cfg.wire s.cfg.jobHeaderCmd g (jobpayload id job)] (.ok .none) with jobidCtr := id }) ∧
    (¬((job.k = 1 ∨ job.k = 4) ∧ job.midstates.length = job.k) →
      exec (.jobframe g job) s = .next (faultedWith s (.operand (.nat job.k))))

/-- The frame of a well-formed job has 152 bytes: the preamble, its header, 0x96, the job-id, k, the fields in the order
of R66, zeros for the midstates a 1-midstate job lacks, and the CRC16 of everything after the preamble, high byte first
(R63, R66).  The wire values are those of R7. -/
def Obligations.JobFrameLayout : Prop :=
  ∀ (hc : BitVec 4) (g : Group) (id : Byte) (job : JobDesc), job.wf = true → (job.k = 1 ∨ job.k = 4) →
    job.midstates.length = job.k →
    ∃ body : Bytes,
      jobframe Config.wire hc g (jobpayload id job) =
        [0x55, 0xAA] ++ body ++ [hiByte (crc16 Config.wire body), loByte (crc16 Config.wire body)] ∧
      body.length = 148 ∧ body.take 4 = [byGroup g 0x20 0x30 ||| hc.setWidth 8, 0x96, id, BitVec.ofNat 8 job.k] ∧
      (body.drop 4).take 4 = job.startingNonce ∧ (body.drop 8).take 4 = job.nbits ∧ (body.drop 12).take 4 = job.ntime ∧
      (body.drop 16).take 4 = job.merkleRoot.drop 28 ∧
      body.drop 20 = job.midstates.flatten ++ List.replicate (128 - 32 * job.k) 0

/-- With JOBID_STEP a positive multiple of 4 and JOBID_MOD a positive multiple of it up to 256, as the launch requires,
every id JOBFRAME allocates has bits 1 to 0 clear and is below JOBID_MOD (R22, R131, R241). -/
def Obligations.JobIdsKeepTheirLowBitsClear : Prop :=
  ∀ (c : Cfg) (ctr : Byte), cfgWf c = true → ctr.toNat % c.jobidStep.toNat = 0 →
    (nextJobId c ctr).getLsbD 0 = false ∧ (nextJobId c ctr).getLsbD 1 = false ∧
    (nextJobId c ctr).toNat < c.jobidMod ∧ (nextJobId c ctr).toNat % c.jobidStep.toNat = 0

/-- With the default step and modulus, job frames sent one after the other from JOBID_CTR = 0 carry the ids 4, 8, .., 124,
0, 4, ..: the n-th carries 4n mod 128, so the 32nd carries 0 (R131). -/
def Obligations.JobIdsCycleThroughThirtyTwo : Prop :=
  ∀ (s : State) (jobs : List (Group × JobDesc)), s.cfg.jobidStep = 4 → s.cfg.jobidMod = 128 → s.jobidCtr = 0 →
    (∀ x ∈ jobs, (x.2.k = 1 ∨ x.2.k = 4) ∧ x.2.midstates.length = x.2.k) →
    ∃ t, execAll (jobs.map fun x => .jobframe x.1 x.2) s = some t ∧ t.jobidCtr.toNat = 4 * jobs.length % 128 ∧
      t.txLog = s.txLog ++ jobs.zipIdx.map fun x =>
        .send (jobframe s.cfg.wire s.cfg.jobHeaderCmd x.1.1 (jobpayload (BitVec.ofNat 8 (4 * (x.2 + 1) % 128)) x.1.2))

/-- FRAME_JOB runs JOBFRAME (R131) on the frame's fields (the model's choice, log 3): with 1 or 4 midstates it allocates
the next id and sends the frame of its fields with that id in place of the id spelled, so exactly the frame spelled when
that id is the next; with another count it faults F_OPERAND. -/
def Obligations.FrameJobSendsItsFields : Prop :=
  ∀ (g : Group) (f : JobFields) (s : State), f.wf = true → 0 < s.cfg.jobidMod →
    ((f.numMidstates = 1 ∨ f.numMidstates = 4) →
      ∀ id : Byte, id = BitVec.ofNat 8 ((s.jobidCtr.toNat + s.cfg.jobidStep.toNat) % s.cfg.jobidMod) →
        exec (.frameJob g f) s =
          .next { sentThen s [jobframe s.cfg.wire s.cfg.jobHeaderCmd g (fieldsPayload { f with jobId := id })] (.ok .none) with
            jobidCtr := id } ∧
        (f.jobId = id →
          encodeUnder s.cfg (.frameJob g f) =
            .frame (jobframe s.cfg.wire s.cfg.jobHeaderCmd g (fieldsPayload { f with jobId := id })))) ∧
    (f.numMidstates ≠ 1 → f.numMidstates ≠ 4 →
      exec (.frameJob g f) s = .next (faultedWith s (.operand (.nat f.numMidstates.toNat))))

/-! ## Initialisation and enumeration -/

/-- INIT's checks precede its first Send: a negative target or a chip count outside 1..256 faults F_OPERAND, a running
ramp gives ERR_BUSY, and nothing is sent (R132). -/
def Obligations.InitChecksBeforeItsProbe : Prop :=
  ∀ (f : Freq) (n : Nat) (d : Word32) (s : State),
    (f < 0 → exec (.init f n d) s = .next (faultedWith s (.operand (.freq f)))) ∧
    (0 ≤ f → (n = 0 ∨ 256 < n) → exec (.init f n d) s = .next (faultedWith s (.operand (.nat n)))) ∧
    (0 ≤ f → 1 ≤ n → n ≤ 256 → s.rampState ≠ .idle → exec (.init f n d) s = .next (returned s .errBusy))

/-- A whole INIT up to its ramp: with its operands in their domains and the ramp idle, it sends the probe and takes one
answer a step while the transport delivers bytes.  At the first timeout or error it returns ERR_NO_CHIPS and sends
nothing further if no answer was a valid chip-ID response.  Otherwise it sends the chain-deactivate frame, the
addresses of the expected count, the family's init frames, the difficulty mask and the baud frames, in that order, and
requests the ramp: it returns the count at once if the target is within EPS of RAMP_CUR, and else waits in its ramp
(R132, R152).  The answers stand in `rx` (the model's choice, log 6).  The wire
values are those of R7. -/
def Obligations.InitRunsItsSequence : Prop :=
  ∀ (f : Freq) (n : Nat) (d : Word32) (s : State) (answers : List Answer) (last : Answer) (rest : List Answer),
    s.cfg.wire = Config.wire → 0 ≤ f → 1 ≤ n → n ≤ 256 → s.rampState = .idle → s.rx = answers ++ last :: rest →
    (∀ a ∈ answers, 0 < answerRc s.cfg.family.chipidRespLen a) → answerRc s.cfg.family.chipidRespLen last ≤ 0 →
    ∃ t u, exec (.init f n d) s = .next t ∧ afterSteps (answers.length + 1) t = some u ∧ u.rx = rest ∧
      (validCount s.cfg answers = 0 → u =
        { s with
          rx := rest, op := .idle, ret := some .errNoChips
          txLog := s.txLog ++ [.send [0x55, 0xAA, 0x52, 0x05, 0x00, 0x00, 0x0A]] ++
            (answers ++ [last]).map (receivedEntry s.cfg.family.chipidRespLen s.cfg.enumTimeoutMs) }) ∧
      (0 < validCount s.cfg answers →
        u.txLog = s.txLog ++ [.send [0x55, 0xAA, 0x52, 0x05, 0x00, 0x00, 0x0A]] ++
            (answers ++ [last]).map (receivedEntry s.cfg.family.chipidRespLen s.cfg.enumTimeoutMs) ++
          ([commandBytes 0x53 [0x00, 0x00]] ++
            (List.range n).map (fun i => commandBytes 0x40 [BitVec.ofNat 8 (i * (256 / n)), 0x00]) ++
            s.cfg.familyInitFrames ++
            [commandBytes 0x51 (0x00 :: s.cfg.family.ticketMaskReg :: maskbytes (maskval s.cfg.maskRounding d))] ++
            s.cfg.baudFrames).map .send ∧
        u.jobidCtr = s.jobidCtr ∧ u.rampCur = s.rampCur ∧ u.faults = s.faults ∧ u.refused = s.refused ∧ u.cfg = s.cfg ∧
        (|s.rampCur - f| ≤ s.cfg.eps → u.op = .idle ∧ u.ret = some (.ok (.count (validCount s.cfg answers))) ∧
          u.rampState = .idle ∧ u.rampTgt = s.rampTgt ∧ u.rampDir = s.rampDir) ∧
        (s.cfg.eps < |s.rampCur - f| → u.op = .initRamp (validCount s.cfg answers) (.ok .none) ∧ u.ret = none ∧
          u.rampState = .stepping ∧ u.rampTgt = f ∧ u.rampDir = if s.rampCur < f then .up else .down))

/-- One round of an enumeration, from any state in one: the transport's next answer, given or free, is one Receive in
TX_LOG.  Bytes go on with the count, one higher for a valid chip-ID response; a timeout or an error ends ENUM_COUNT with
its count, and INIT with ERR_NO_CHIPS if the count is 0 (R152, R132).  Where the ramp
is SETTLING, a choice in the state gives the settle timer its turn, which is RAMP_SETTLED, and with no choice left the
timer fires, so that it always comes (R229, R250; the model's choice, log 8; the answer of an empty `rx` is free, log 6). -/
def Obligations.EnumerationTakesOneAnswerAStep : Prop :=
  (∀ (s : State) (a : Answer) (rest : List Answer) (drawn n : Nat) (rc : Int) (more : List Bool) (log : List TxEvent),
    (s.rx = a :: rest ∧ drawn = s.draws ∨
      s.rx = [] ∧ rest = [] ∧ a = Config.freeAnswer s.draws ∧ drawn = s.draws + 1) →
    (s.rampState ≠ .settling ∧ more = s.timerFirst ∨
      s.rampState = .settling ∧ s.timerFirst = false :: more) →
    n = s.cfg.family.chipidRespLen → rc = answerRc n a →
    log = s.txLog ++ [receivedEntry n s.cfg.enumTimeoutMs a] →
    (∀ c, s.op = .enumCount c → step s = .next
      (if rc ≤ 0 then
        { s with rx := rest, draws := drawn, timerFirst := more, txLog := log, op := .idle, ret := some (.ok (.count c)) }
      else
        { s with
          rx := rest, draws := drawn, timerFirst := more, txLog := log, ret := none
          op := .enumCount (c + validCount s.cfg [a]) })) ∧
    (∀ f k d c, s.op = .initEnum f k d c → 0 < rc → step s = .next
      { s with
        rx := rest, draws := drawn, timerFirst := more, txLog := log, ret := none
        op := .initEnum f k d (c + validCount s.cfg [a]) }) ∧
    (∀ f k d, s.op = .initEnum f k d 0 → rc ≤ 0 → step s = .next
      { s with rx := rest, draws := drawn, timerFirst := more, txLog := log, op := .idle, ret := some .errNoChips })) ∧
  (∀ (s : State) (more : List Bool), ((∃ c, s.op = .enumCount c) ∨ ∃ f k d c, s.op = .initEnum f k d c) →
    s.rampState = .settling → (s.timerFirst = true :: more ∨ s.timerFirst = [] ∧ more = []) →
    step s = .next { s with
      timerFirst := more, txLog := s.txLog ++ [.settle]
      rampState := if s.rampCur = s.rampTgt then .idle else .stepping
      rampDir := if s.rampCur = s.rampTgt then .none else s.rampDir })

/-- A whole ENUM_COUNT: it takes one answer a step while the transport delivers bytes, and at the first timeout or error
returns the number of valid chip-ID responses among them; a bad frame is skipped with no ClearBuffer.  Nothing is
written but TX_LOG (R152).  The ramp is not settling, so no timer event comes between (R229).  The answers stand in `rx`
(the model's choice, log 6). -/
def Obligations.EnumCountCountsValidResponses : Prop :=
  ∀ (s : State) (answers : List Answer) (last : Answer) (rest : List Answer),
    s.rampState ≠ .settling → s.rx = answers ++ last :: rest →
    (∀ a ∈ answers, 0 < answerRc s.cfg.family.chipidRespLen a) → answerRc s.cfg.family.chipidRespLen last ≤ 0 →
    ∃ t, exec .enumCount s = .next t ∧ afterSteps (answers.length + 1) t = some
      { s with
        rx := rest, op := .idle, ret := some (.ok (.count (validCount s.cfg answers)))
        txLog := s.txLog ++ (answers ++ [last]).map (receivedEntry s.cfg.family.chipidRespLen s.cfg.enumTimeoutMs) }

/-! ## Responses -/

/-- RECV_RESULT, whatever the transport answers: the checks of R150 in their order (timeout, transport error, length,
preamble, CRC, job-id), the decoded fields of a good frame, and a ClearBuffer for a length, preamble or CRC failure
only.  It writes TX_LOG and nothing else of the block (R150).  That the answers stand in `rx`, that an empty `rx` gives a
free one counted in `draws`, and that bytes beyond those asked for are dropped, are the model's choices (log 6); so is
that the issue and its answer are one step (log 18). -/
def Obligations.RecvResultChecksInOrder : Prop :=
  ∀ (s : State) (a : Answer) (rest : List Answer) (drawn : Nat),
    (s.rx = a :: rest ∧ drawn = s.draws ∨
      s.rx = [] ∧ rest = [] ∧ a = Config.freeAnswer s.draws ∧ drawn = s.draws + 1) → 8 ≤ s.cfg.resultLen →
    ∃ (st : Status) (clear : Bool),
      exec .recvResult s = .next
        { s with
          rx := rest, draws := drawn, op := .idle, ret := some st
          txLog := s.txLog ++ [receivedEntry s.cfg.resultLen s.cfg.workTimeoutMs a] ++
            (if clear = true then [.clearBuffer] else []) } ∧
      (a = .error → st = .noneTransport ∧ clear = false) ∧
      (a = .bytes [] → st = .noneTimeout ∧ clear = false) ∧
      (∀ bs, a = .bytes bs → bs ≠ [] → bs.length < s.cfg.resultLen → st = .noneLength bs.length ∧ clear = true) ∧
      (∀ (p0 p1 b0 b1 b2 b3 m i : Byte) (more buf : Bytes), a = .bytes (buf ++ more) → buf.length = s.cfg.resultLen →
        buf.take 8 = [p0, p1, b0, b1, b2, b3, m, i] →
        (st, clear) =
          if (p0, p1) ≠ s.cfg.wire.respPreamble then (.nonePreamble p0 p1, true)
          else if crc5 s.cfg.wire (buf.drop 2) ≠ 0 then (.noneCrc, true)
          else if s.cfg.jobidMod ≤ (i &&& 0xFC).toNat then (.noneProtocol (i &&& 0xFC), false)
          else (.result (i &&& 0xFC) (i &&& 0x03) [b0, b1, b2, b3]
            (b0.setWidth 32 ||| b1.setWidth 32 <<< 8 ||| b2.setWidth 32 <<< 16 ||| b3.setWidth 32 <<< 24), false))

/-- CHECK_CHIPID returns its verdict and writes no state: length, preamble, chip-ID, CRC, in that order (R151). -/
def Obligations.CheckChipidChecksInOrder : Prop :=
  ∀ (rc : Int) (buf : Bytes) (s : State), 5 ≤ s.cfg.family.chipidRespLen →
    (rc ≠ s.cfg.family.chipidRespLen → exec (.checkChipid rc buf) s = .next (returned s (.noneLength rc))) ∧
    (∀ (p0 p1 b2 b3 : Byte) (more : Bytes), rc = s.cfg.family.chipidRespLen → buf = p0 :: p1 :: b2 :: b3 :: more →
      s.cfg.family.chipidRespLen ≤ buf.length →
      exec (.checkChipid rc buf) s = .next (returned s
        (if (p0, p1) ≠ s.cfg.wire.respPreamble then .nonePreamble p0 p1
        else if b2 ++ b3 ≠ s.cfg.family.chipId then .noneChipid b2 b3
        else if crc5 s.cfg.wire ((buf.take s.cfg.family.chipidRespLen).drop 2) ≠ 0 then .noneCrc
        else .ok .none))) ∧
    (∃ st, exec (.checkChipid rc buf) s = .next (returned s st))

/-! ## Frequency lookup and write -/

/-- PLL_LOOKUP on a well-formed table: F_OPERAND for a negative target; ERR_PLL_RANGE when the table is empty or the
target is below its first entry; else an entry at or below the target such that no entry at or below the target is
greater.  It writes no state (R170). -/
def Obligations.PllLookupReturnsTheGreatestBelow : Prop :=
  ∀ (f : Freq) (s : State), tableWf s.cfg.pllTable = true →
    (f < 0 → exec (.pllLookup f) s = .next (faultedWith s (.operand (.freq f)))) ∧
    (0 ≤ f → (∀ e ∈ s.cfg.pllTable, f < e.freq) → exec (.pllLookup f) s = .next (returned s .errPllRange)) ∧
    (0 ≤ f → (∃ e ∈ s.cfg.pllTable, e.freq ≤ f) →
      ∃ e ∈ s.cfg.pllTable, e.freq ≤ f ∧ (∀ e' ∈ s.cfg.pllTable, e'.freq ≤ f → e'.freq ≤ e.freq) ∧
        exec (.pllLookup f) s =
          .next (returned s (.ok (.entry e.fbDivider e.refdiv e.postdiv1 e.postdiv2 e.freq))))

/-- On a well-formed table the binary search of R171 and the lookup of R170 give the same result. -/
def Obligations.BinarySearchAgreesWithLookup : Prop :=
  ∀ (table : List PllEntry) (f : Freq), tableWf table = true → pllSearch table f = pllLookup table f

/-- SETFREQ by the host: the capability check, the operand check, the lookup, the hazard test, and then one PLL write and
the table's frequency as its status; RAMP_CUR stays (R172).  The wire values are those of R7. -/
def Obligations.SetfreqChecksThenWrites : Prop :=
  ∀ (f : Freq) (s : State),
    (s.cfg.family.hasFreqReg = false → exec (.setfreq f) s = .next (returned s .errUnsupported)) ∧
    (s.cfg.family.hasFreqReg = true → f < 0 → exec (.setfreq f) s = .next (faultedWith s (.operand (.freq f)))) ∧
    (s.cfg.family.hasFreqReg = true → 0 ≤ f → pllLookup s.cfg.pllTable f = none →
      exec (.setfreq f) s = .next (returned s .errPllRange)) ∧
    (∀ e, s.cfg.wire = Config.wire → s.cfg.family.hasFreqReg = true → 0 ≤ f → pllLookup s.cfg.pllTable f = some e →
      exec (.setfreq f) s = .next
        (if s.rampState ≠ .idle ∨ s.cfg.rampStep < |f - s.rampCur| then faultedWith s (.hazardFreq f)
        else sentThen s [commandBytes 0x51 [0x00, s.cfg.family.pll0Reg, freqCtrl s.cfg.family e.fbDivider e.refdiv,
          e.fbDivider, e.refdiv, pdPack s.cfg.family e.postdiv1 e.postdiv2]] (.ok (.freq e.freq))))

/-! ## The ramp -/

/-- RAMP_REQ: F_OPERAND for a negative target, ERR_BUSY in a ramp, a no-op within EPS of RAMP_CUR, and else the target,
the direction and STEPPING; it sends no frame (R191). -/
def Obligations.RampReqStartsTheRamp : Prop :=
  ∀ (f : Freq) (s : State),
    exec (.rampReq f) s = .next
      (if f < 0 then faultedWith s (.operand (.freq f))
      else if s.rampState ≠ .idle then returned s .errBusy
      else if |s.rampCur - f| ≤ s.cfg.eps then returned s (.ok .none)
      else { returned s (.ok .none) with
        rampTgt := f, rampDir := if s.rampCur < f then .up else .down, rampState := .stepping })

/-- The ramp's next value: from a step boundary one full step, and otherwise the rounding to the nearest boundary in the
ramp's direction, each clamped to the target (R192).  So it moves strictly toward the target and never past it, by at most
one step, and it is the target or a step boundary. -/
def Obligations.RampNextStaysWithinOneStep : Prop :=
  ∀ step cur tgt : Freq, 0 < step →
    ((∃ k : Int, cur = k * step) →
      rampNext step cur tgt true 1 = min (cur + step) tgt ∧ rampNext step cur tgt false (-1) = max (cur - step) tgt) ∧
    ((¬∃ k : Int, cur = k * step) →
      rampNext step cur tgt true 1 = min ((⌈cur / step⌉ : Freq) * step) tgt ∧
      rampNext step cur tgt false (-1) = max ((⌊cur / step⌋ : Freq) * step) tgt) ∧
    (cur < tgt → cur < rampNext step cur tgt true 1 ∧ rampNext step cur tgt true 1 ≤ tgt ∧
      rampNext step cur tgt true 1 - cur ≤ step ∧
      (rampNext step cur tgt true 1 = tgt ∨ ∃ k : Int, rampNext step cur tgt true 1 = k * step)) ∧
    (tgt < cur → tgt ≤ rampNext step cur tgt false (-1) ∧ rampNext step cur tgt false (-1) < cur ∧
      cur - rampNext step cur tgt false (-1) ≤ step ∧
      (rampNext step cur tgt false (-1) = tgt ∨ ∃ k : Int, rampNext step cur tgt false (-1) = k * step))

/-- RAMP_STEP when it is enabled, in a state that meets the invariant of the ramp: one write of the next value, which the
table frequency at or below it carries; then RAMP_CUR is that value and the settle delay runs.  A failed write (no
register, or below the table) does the same without a frame under `continue`; under `abort` it ends the ramp where it
stands, and a waiting RAMP returns ERR_RAMP_ABORTED, a waiting INIT its count (R193, R132). -/
def Obligations.RampStepWritesTheNextValue : Prop :=
  ∀ (s : State) (nxt : Freq), cfgWf s.cfg = true → Inv s → s.rampState = .stepping →
    (s.op = .idle ∨ (∃ st, s.op = .ramp st) ∨ (∃ n st, s.op = .initRamp n st)) →
    nxt = rampNext s.cfg.rampStep s.rampCur s.rampTgt (s.rampDir == .up) (dirUnit s.rampDir) →
    (∀ e, s.cfg.family.hasFreqReg = true → pllLookup s.cfg.pllTable nxt = some e →
      exec .rampStep s = .next { s with
        rampCur := nxt, rampState := .settling, txLog := s.txLog ++ [.send (freqFrame s.cfg e)] }) ∧
    ((s.cfg.family.hasFreqReg = false ∨ pllLookup s.cfg.pllTable nxt = none) →
      (s.cfg.rampOnFail = .continue_ → exec .rampStep s = .next { s with rampCur := nxt, rampState := .settling }) ∧
      (s.cfg.rampOnFail = .abort → ∃ t, exec .rampStep s = .next t ∧
        t = { s with
          rampTgt := s.rampCur, rampDir := .none, rampState := .idle, op := .idle
          ret := match s.op with
            | .ramp _ => some .errRampAborted
            | .initRamp n _ => some (.ok (.count n))
            | _ => s.ret }))

/-- RAMP_SETTLED when it is enabled appends Settle; at the target the ramp goes idle with direction 0, and a waiting RAMP
returns its status, a waiting INIT its count; short of the target the ramp is STEPPING again (R194, R196, R132). -/
def Obligations.RampSettledEndsOrContinues : Prop :=
  ∀ s : State, s.rampState = .settling →
    (s.rampCur ≠ s.rampTgt →
      exec .rampSettled s = .next { s with txLog := s.txLog ++ [.settle], rampState := .stepping }) ∧
    (s.rampCur = s.rampTgt →
      exec .rampSettled s = .next { s with
        txLog := s.txLog ++ [.settle], rampDir := .none, rampState := .idle
        op := match s.op with
          | .ramp _ => .idle
          | .initRamp _ _ => .idle
          | p => p
        ret := match s.op with
          | .ramp st => some st
          | .initRamp n _ => some (.ok (.count n))
          | _ => s.ret })

/-- An event that is not enabled does not happen (R190, R229; that it leaves the state as it is, is the model's choice,
log 8). -/
def Obligations.DisabledEventsChangeNothing : Prop :=
  ∀ s : State,
    (s.rampState ≠ .stepping → exec .rampStep s = .next s) ∧
    ((∃ n, s.op = .enumCount n) ∨ (∃ f n d c, s.op = .initEnum f n d c) → exec .rampStep s = .next s) ∧
    (s.rampState ≠ .settling → exec .rampSettled s = .next s)

/-- A whole RAMP: from rest, with `continue` on failed writes, it returns OK, and after at most
2 * (ceil(|f - RAMP_CUR| / RAMP_STEP) + 1) further steps the ramp is idle exactly at its target.  A negative target
faults, a running ramp gives ERR_BUSY (R195, R196). -/
def Obligations.RampRunsToItsTarget : Prop :=
  ∀ (f : Freq) (s : State),
    (f < 0 → exec (.ramp f) s = .next (faultedWith s (.operand (.freq f)))) ∧
    (0 ≤ f → s.rampState ≠ .idle → exec (.ramp f) s = .next (returned s .errBusy)) ∧
    (0 ≤ f → s.rampState = .idle → |s.rampCur - f| ≤ s.cfg.eps → exec (.ramp f) s = .next (returned s (.ok .none))) ∧
    (0 ≤ f → s.rampState = .idle → s.cfg.eps < |s.rampCur - f| → cfgWf s.cfg = true → Inv s →
      s.cfg.rampOnFail = .continue_ →
      ∃ (t u : State) (k : Nat), exec (.ramp f) s = .next t ∧ t.txLog = s.txLog ∧
        (k : Int) ≤ 2 * (⌈|f - s.rampCur| / s.cfg.rampStep⌉ + 1) ∧ afterSteps k t = some u ∧
        u.rampState = .idle ∧ u.rampCur = f ∧ u.rampTgt = f ∧ u.rampDir = .none ∧ u.op = .idle ∧
        u.ret = some (.ok .none) ∧ u.jobidCtr = s.jobidCtr ∧ u.faults = s.faults ∧ u.refused = s.refused ∧ u.port = s.port)

/-- Every ramp ends: from any state of a ramp that meets the invariant, with nothing issued or an operation waiting for
the ramp, some number of steps leads to rest, at the ramp's target or, under `abort` only, where a failed write found it;
a waiting RAMP returns OK or ERR_RAMP_ABORTED by that, and a waiting INIT its count (R193, R195, R196, R132).  That with an
empty port the next event is the ramp's is the model's choice (logs 8 and 19). -/
def Obligations.EveryRampEnds : Prop :=
  ∀ s : State, cfgWf s.cfg = true → Inv s → s.rampState ≠ .idle →
    ((s.op = .idle ∧ s.port = []) ∨ (∃ st, s.op = .ramp st) ∨ (∃ n st, s.op = .initRamp n st)) →
    ∃ (k : Nat) (u : State), afterSteps k s = some u ∧ u.rampState = .idle ∧ u.rampCur = u.rampTgt ∧ u.rampDir = .none ∧
      u.op = .idle ∧
      (u.rampCur = s.rampTgt ∨
        s.cfg.rampOnFail = .abort ∧ u.rampCur ≠ s.rampTgt ∧
          (s.cfg.family.hasFreqReg = false ∨
            pllLookup s.cfg.pllTable
              (rampNext s.cfg.rampStep u.rampCur s.rampTgt (s.rampDir == .up) (dirUnit s.rampDir)) = none)) ∧
      (∀ st, s.op = .ramp st → u.ret = some (if u.rampCur = s.rampTgt then .ok .none else .errRampAborted)) ∧
      (∀ n st, s.op = .initRamp n st → u.ret = some (.ok (.count n)))

/-- Between two writes of a ramp there is a Settle (R245): the sequencer writes only in STEPPING, and the write leaves
SETTLING; a step leads from SETTLING to STEPPING only by appending Settle; so a run that leads from SETTLING to STEPPING
while the ramp does not end has appended a Settle. -/
def Obligations.RampWritesAreSpacedBySettles : Prop :=
  (∀ s t : State, exec .rampStep s = .next t → t.txLog ≠ s.txLog → s.rampState = .stepping ∧ t.rampState = .settling) ∧
  (∀ s t : State, step s = .next t → s.rampState = .settling → t.rampState = .stepping → t.txLog = s.txLog ++ [.settle]) ∧
  (∀ (k : Nat) (s t : State), s.rampState = .settling → afterSteps k s = some t → t.rampState = .stepping →
    (∀ j u, j ≤ k → afterSteps j s = some u → u.rampState ≠ .idle) →
    ∃ new, t.txLog = s.txLog ++ new ∧ .settle ∈ new)

/-! ## Reset and launch -/

/-- RESET returns the five registers to their reset values and OK; FAULTS, REFUSED and TX_LOG stay (R240). -/
def Obligations.ResetRestoresTheRegisters : Prop :=
  ∀ s : State, exec .reset s = .next { returned s (.ok .none) with
    jobidCtr := 0, rampState := .idle, rampCur := s.cfg.bootFreq, rampTgt := s.cfg.bootFreq, rampDir := .none }

/-- The launch state under any configuration: every register at its launch value, and REFUSED set exactly when a condition
of R241 fails (R36, R241; what the frame checks say of a frame of neither type is the model's reading, log 15). -/
def Obligations.LaunchState : Prop :=
  ∀ c : Cfg, (State.launch c).jobidCtr = 0 ∧ (State.launch c).rampState = .idle ∧ (State.launch c).rampCur = c.bootFreq ∧
    (State.launch c).rampTgt = c.bootFreq ∧ (State.launch c).rampDir = .none ∧ (State.launch c).faults = [] ∧
    (State.launch c).txLog = [] ∧ (State.launch c).op = .idle ∧ (State.launch c).cfg = c ∧
    ((State.launch c).refused = false ↔
      ((c.pllTable.map fun e => e.freq).Pairwise (fun x y => x < y) ∧ ∀ e ∈ c.pllTable, 0 < e.freq) ∧
      (∀ f ∈ c.familyInitFrames ++ c.baudFrames, frameOk c.wire f = true) ∧
      (0 < c.jobidStep.toNat ∧ 4 ∣ c.jobidStep.toNat) ∧
      (0 < c.jobidMod ∧ c.jobidStep.toNat ∣ c.jobidMod ∧ c.jobidMod ≤ 256) ∧
      (0 < c.rampStep ∧ 0 ≤ c.eps ∧ 0 ≤ c.bootFreq) ∧
      5 ≤ c.family.chipidRespLen ∧ 8 ≤ c.resultLen)

/-- The reset state's configuration has the values that R7 gives its fields; with the table T_EX it passes the launch
check, so the reset state is not refused (R241; the OPEN values are the model's choice, log 7). -/
def Obligations.DefaultConfigurationLaunches : Prop :=
  State.reset.cfg.wire =
    { txPreamble := (0x55, 0xAA), typeJob := 0x20, typeCmd := 0x40, groupSingle := 0x00, groupAll := 0x10
      cmdSetaddr := 0x0, cmdWrite := 0x1, cmdRead := 0x2, cmdInactive := 0x3, crc5Poly := 0x05, crc5Init := 0x1F
      crc16Poly := 0x1021, crc16Init := 0xFFFF, crc16Xorout := 0x0000, respPreamble := (0xAA, 0x55) } ∧
  (State.reset.cfg.jobHeaderCmd = 0x1 ∧ State.reset.cfg.resultLen = 9 ∧ State.reset.cfg.jobidStep = 4 ∧
    State.reset.cfg.jobidMod = 128 ∧ State.reset.cfg.maskRounding = .down ∧ State.reset.cfg.rampStep = 25 / 4 ∧
    State.reset.cfg.eps = 0 ∧ State.reset.cfg.rampOnFail = .continue_) ∧
  cfgWf State.reset.cfg = true ∧ State.reset.refused = false

/-- The launch state of an accepted configuration meets the invariant. -/
def Obligations.LaunchMeetsTheInvariant : Prop :=
  ∀ c : Cfg, cfgWf c = true → Inv (State.launch c)

/-! ## The whole machine -/

/-- Every step of the machine, from any state that meets the invariant under an accepted configuration, leads to a state
that meets it: JOBID_CTR stays a multiple of JOBID_STEP below JOBID_MOD (R22), the ramp registers agree with RAMP_STATE
(R190, R25), no frequency goes negative (R225), a waiting operation holds checked operands, and FAULTS has no repeats. -/
def Obligations.EveryStepKeepsTheInvariant : Prop :=
  ∀ s t : State, cfgWf s.cfg = true → Inv s → step s = .next t → Inv t

/-- Under an accepted configuration, every frame the machine ever sends passes the three checks of R133, with
the wire values of R7. -/
def Obligations.EveryFrameSentPassesItsChecks : Prop :=
  ∀ s t : State, s.cfg.wire = Config.wire → cfgWf s.cfg = true → LogFramesOk s → step s = .next t → LogFramesOk t

/-- The mask register is only ever written with a value 2^k - 1 (R244), where the mask and PLL registers differ and the
configured frames themselves keep the rule, with the wire values of R7. -/
def Obligations.MaskRegisterNeverGetsAGap : Prop :=
  ∀ s t : State, s.cfg.wire = Config.wire → s.cfg.family.ticketMaskReg ≠ s.cfg.family.pll0Reg →
    (∀ f ∈ s.cfg.familyInitFrames ++ s.cfg.baudFrames, MaskSafe s.cfg f) →
    LogMaskSafe s → step s = .next t → LogMaskSafe t

/-- No operation and no event writes the configuration (R26). -/
def Obligations.ConfigurationIsReadOnly : Prop :=
  ∀ s t : State, step s = .next t → t.cfg = s.cfg

/-- FAULTS never loses an element (R28), REFUSED stays set (R37), and TX_LOG only grows at its end (R29). -/
def Obligations.FaultsRefusalAndLogOnlyGrow : Prop :=
  ∀ s t : State, step s = .next t →
    s.faults ⊆ t.faults ∧ (s.refused = true → t.refused = true) ∧ s.txLog <+: t.txLog

/-- Every fault is precise: an instruction issued with no host operation in progress leaves FAULTS as it is, and returns a
status, waits, or is an event; or it faults, and then its fault is in FAULTS, whether it was there before or not, and
nothing else of the spec's state changes (R225). -/
def Obligations.FaultsArePrecise : Prop :=
  ∀ (i : Instr) (s t : State), s.op = .idle → exec i s = .next t →
    (t.faults = s.faults ∧ (t.ret ≠ none ∨ t.op ≠ .idle ∨ i = .rampStep ∨ i = .rampSettled)) ∨
    ∃ f, t = faultedWith s f

/-- Nothing stops the machine: every instruction and every step answers a next state, since a fault or a refusal is
recorded and the block runs on (R225). -/
def Obligations.NoInstructionStopsTheMachine : Prop :=
  (∀ (i : Instr) (s : State), ∃ t, exec i s = .next t) ∧ (∀ s : State, ∃ t, step s = .next t)

/-- The registers have their writers: JOBID_CTR only JOBFRAME, with its wire row (log 3), and RESET (R22, R240); RAMP_CUR
only RAMP_STEP and RESET (R23, R240); the other ramp registers only the ramp's own operations and RESET (R24, R25, R27).
A step writes them only so: by an issued instruction, by RAMP_STEP, by a settle event, or by the ramp request of an INIT
at the end of its enumeration (R132). -/
def Obligations.RegistersHaveTheirWriters : Prop :=
  (∀ (i : Instr) (s t : State), exec i s = .next t →
    (t.jobidCtr ≠ s.jobidCtr → i = .reset ∨ (∃ g job, i = .jobframe g job) ∨ ∃ g f, i = .frameJob g f) ∧
    (t.rampCur ≠ s.rampCur → i = .rampStep ∨ i = .reset) ∧
    (t.rampTgt ≠ s.rampTgt ∨ t.rampDir ≠ s.rampDir ∨ t.rampState ≠ s.rampState →
      i = .rampStep ∨ i = .rampSettled ∨ i = .reset ∨ (∃ f, i = .rampReq f) ∨ ∃ f, i = .ramp f)) ∧
  (∀ s t : State, step s = .next t →
    (t.jobidCtr ≠ s.jobidCtr → ∃ i, Issues s i t) ∧
    (t.rampCur ≠ s.rampCur → (∃ i, Issues s i t) ∨ exec .rampStep s = .next t) ∧
    (t.rampTgt ≠ s.rampTgt ∨ t.rampDir ≠ s.rampDir ∨ t.rampState ≠ s.rampState →
      (∃ i, Issues s i t) ∨ exec .rampStep s = .next t ∨
        (s.rampState = .settling ∧ t.txLog = s.txLog ++ [.settle]) ∨
        ∃ f n d c, s.op = .initEnum f n d c ∧ t.op = .initRamp c (.ok .none) ∧ t.rampTgt = f))
end

