-- ==== Sys2Proof/Laws/Codec.lean ====
section
/-! SUPPORT. Each operand reader reads back what its writer wrote, and leaves the bytes after it. -/

namespace Sys2Proof

open Machine

@[simp] theorem chain_ok {α β : Type} (x : α) (r : Bytes) (k : α → Bytes → ReadResult β) : chain (.ok (x, r)) k = k x r := rfl

@[simp] theorem chain_error {α β : Type} (e : DecodeError) (k : α → Bytes → ReadResult β) :
    chain (.error e : ReadResult α) k = .error e := rfl

@[simp] theorem readByte_cons (b : Byte) (r : Bytes) : readByte (b :: r) = .ok (b, r) := rfl

/-- `readBytesN` takes exactly the bytes asked for. -/
theorem readBytesN_append (bs r : Bytes) : readBytesN bs.length (bs ++ r) = .ok (bs, r) := by
  simp [readBytesN]

theorem readBytesN_of_length {n : Nat} {bs : Bytes} (h : bs.length = n) (r : Bytes) :
    readBytesN n (bs ++ r) = .ok (bs, r) := by
  subst h; exact readBytesN_append bs r

/-- With enough fuel, a natural number is read back. -/
theorem readNat_writeNatFuel (fuel n : Nat) (h : n ≤ fuel) (r : Bytes) :
    readNat (writeNatFuel fuel n ++ r) = .ok (n, r) := by
  induction fuel generalizing n with
  | zero =>
    obtain rfl : n = 0 := by omega
    simp [writeNatFuel, readNat]
  | succ fuel ih =>
    unfold writeNatFuel
    split
    · rename_i hn
      have h256 : n % 256 = n := by omega
      simp [readNat, h256, hn]
    · rename_i hn
      have hb : (BitVec.ofNat 8 (n % 128 + 128)).toNat = n % 128 + 128 := by
        rw [BitVec.toNat_ofNat]; omega
      rw [List.cons_append, readNat, hb, ih (n / 128) (by omega)]
      have h1 : ¬ n % 128 + 128 < 128 := by omega
      have h2 : n % 128 + 128 - 128 + 128 * (n / 128) = n := by omega
      rw [if_neg h1]
      simp only [h2]

@[simp] theorem readNat_writeNat (n : Nat) (r : Bytes) : readNat (writeNat n ++ r) = .ok (n, r) :=
  readNat_writeNatFuel n n le_rfl r

@[simp] theorem readBytes_writeBytes (bs r : Bytes) : readBytes (writeBytes bs ++ r) = .ok (bs, r) := by
  simp [readBytes, writeBytes, readBytesN_append]

/-- The four bytes of a u32 join to it again. -/
theorem le32_parts (d : Word32) :
    le32 (d.extractLsb' 0 8) (d.extractLsb' 8 8) (d.extractLsb' 16 8) (d.extractLsb' 24 8) = d := by
  apply BitVec.eq_of_getLsbD_eq
  intro i hi
  simp only [le32, BitVec.getLsbD_append, BitVec.getLsbD_extractLsb']
  by_cases h1 : i < 8
  · simp [h1]
  · by_cases h2 : i - 8 < 8
    · have e : 8 + (i - 8) = i := by omega
      simp [h1, h2, e]
    · by_cases h3 : i - 8 - 8 < 8
      · have e : 16 + (i - 8 - 8) = i := by omega
        simp [h1, h2, h3, e]
      · have e : 24 + (i - 8 - 8 - 8) = i := by omega
        have h4 : i - 8 - 8 - 8 < 8 := by omega
        simp [h1, h2, h3, h4, e]

@[simp] theorem readWord32_writeWord32 (d : Word32) (r : Bytes) : readWord32 (writeWord32 d ++ r) = .ok (d, r) := by
  simp [writeWord32, readWord32, le32_parts]

/-- A group is read back where the two groups are told apart. -/
theorem readGroup_writeGroup {w : Wire} (h : w.groupSingle ≠ w.groupAll) (g : Group) (r : Bytes) :
    readGroup w (writeGroup w g ++ r) = .ok (g, r) := by
  cases g <;> simp [readGroup, writeGroup, groupBits, h.symm]

@[simp] theorem readInt_writeInt (x : Int) (r : Bytes) : readInt (writeInt x ++ r) = .ok (x, r) := by
  by_cases h : x < 0
  · simp [readInt, writeInt, readSign, h, abs_of_neg h]
  · simp [readInt, writeInt, readSign, h, abs_of_nonneg (not_lt.mp h)]

@[simp] theorem readFreq_writeFreq (f : Freq) (r : Bytes) : readFreq (writeFreq f ++ r) = .ok (f, r) := by
  have h : f.den - 1 + 1 = f.den := Nat.sub_add_cancel f.den_pos
  simp [readFreq, writeFreq, h, Rat.mkRat_self]

@[simp] theorem readEntry_writeEntry (e : PllEntry) (r : Bytes) : readEntry (writeEntry e ++ r) = .ok (e, r) := by
  simp [readEntry, writeEntry]

/-- Midstates of 32 bytes are read back. -/
theorem readMidstates_flatten (ms : List Bytes) (h : ∀ m ∈ ms, m.length = 32) (r : Bytes) :
    readMidstates ms.length (ms.flatten ++ r) = .ok (ms, r) := by
  induction ms with
  | nil => rfl
  | cons m ms ih =>
    have hm : m.length = 32 := h m (by simp)
    simp [readMidstates, readBytesN_of_length hm, ih fun x hx => h x (by simp [hx])]

/-- A well-formed job descriptor is read back. -/
theorem readJob_writeJob (j : JobDesc) (h : j.wf = true) (r : Bytes) : readJob (writeJob j ++ r) = .ok (j, r) := by
  simp only [JobDesc.wf, Bool.and_eq_true, beq_iff_eq, List.all_eq_true] at h
  obtain ⟨⟨⟨⟨h1, h2⟩, h3⟩, h4⟩, h5⟩ := h
  simp [readJob, writeJob, readBytesN_of_length h1, readBytesN_of_length h2, readBytesN_of_length h3,
    readBytesN_of_length h4, readMidstates_flatten j.midstates h5]

end Sys2Proof
end

