-- ==== Sys2Proof/Laws/Freq.lean ====
section
/-! SUPPORT. The frequency arithmetic in Mathlib's terms, and what the launch check says of a configuration. -/

namespace Sys2Proof.Machine

/-- `absDiff` is the absolute difference. -/
theorem absDiff_eq (x y : Freq) : absDiff x y = |x - y| := by
  unfold absDiff
  split
  · rw [abs_of_nonpos (by linarith)]; ring
  · rw [abs_of_nonneg (by linarith)]

/-- A frequency is aligned to a step when it is an integer multiple of it. -/
theorem aligned_iff (x s : Freq) (hs : s ≠ 0) : aligned x s = true ↔ ∃ k : Int, x = k * s := by
  simp only [aligned, freqDiv, if_neg hs, beq_iff_eq]
  constructor
  · intro h
    refine ⟨(x / s).num, ?_⟩
    rw [(Rat.den_eq_one_iff (x / s)).mp h]
    field_simp
  · rintro ⟨k, rfl⟩
    rw [mul_div_assoc, div_self hs, mul_one]
    simp

/-- The rounding up of `rampNext` is the ceiling. -/
theorem rat_ceil_eq (x : Freq) : Rat.ceil x = ⌈x⌉ := by
  rw [Rat.ceil_eq_neg_floor_neg]
  rfl

/-- The rounding down of `rampNext` is the floor. -/
theorem rat_floor_eq (x : Freq) : Rat.floor x = ⌊x⌋ := rfl

/-- In an ascending table every entry is below all later ones. -/
theorem ascending_pairwise : ∀ t : List PllEntry, ascending t = true → t.Pairwise fun a b => a.freq < b.freq
  | [] => fun _ => .nil
  | [_] => fun _ => by simp
  | a :: b :: rest => fun h => by
    simp only [ascending, Bool.and_eq_true, decide_eq_true_eq] at h
    have ih := ascending_pairwise (b :: rest) h.2
    refine .cons ?_ ih
    intro x hx
    rcases List.mem_cons.mp hx with rfl | hx
    · exact h.1
    · exact h.1.trans (List.rel_of_pairwise_cons ih hx)

/-- What the launch check lets through (R241). -/
theorem cfgWf_facts {c : Cfg} (h : cfgWf c = true) :
    tableWf c.pllTable = true ∧ (∀ f ∈ c.familyInitFrames, frameOk c.wire f = true) ∧ (∀ f ∈ c.baudFrames, frameOk c.wire f = true) ∧
    0 < c.jobidStep.toNat ∧ c.jobidStep.toNat % 4 = 0 ∧ 0 < c.jobidMod ∧ c.jobidMod % c.jobidStep.toNat = 0 ∧
    c.jobidMod ≤ 256 ∧ 0 < c.rampStep ∧ 0 ≤ c.eps ∧ 0 ≤ c.bootFreq ∧ 5 ≤ c.family.chipidRespLen ∧ 8 ≤ c.resultLen := by
  simp [cfgWf, Bool.and_eq_true, List.all_eq_true] at h
  tauto

end Sys2Proof.Machine
end

