-- ==== Sys2Proof/Laws/State.lean ====
section
/-! SUPPORT. One lemma per field per named update of the state, so that no later proof unfolds an update. -/

namespace Sys2Proof.Machine

variable (s : State)

@[simp] theorem State.log_jobidCtr (e : TxEvent) : (s.log e).jobidCtr = s.jobidCtr := rfl
@[simp] theorem State.log_rampState (e : TxEvent) : (s.log e).rampState = s.rampState := rfl
@[simp] theorem State.log_rampCur (e : TxEvent) : (s.log e).rampCur = s.rampCur := rfl
@[simp] theorem State.log_rampTgt (e : TxEvent) : (s.log e).rampTgt = s.rampTgt := rfl
@[simp] theorem State.log_rampDir (e : TxEvent) : (s.log e).rampDir = s.rampDir := rfl
@[simp] theorem State.log_faults (e : TxEvent) : (s.log e).faults = s.faults := rfl
@[simp] theorem State.log_refused (e : TxEvent) : (s.log e).refused = s.refused := rfl
@[simp] theorem State.log_txLog (e : TxEvent) : (s.log e).txLog = s.txLog ++ [e] := rfl
@[simp] theorem State.log_cfg (e : TxEvent) : (s.log e).cfg = s.cfg := rfl
@[simp] theorem State.log_op (e : TxEvent) : (s.log e).op = s.op := rfl
@[simp] theorem State.log_ret (e : TxEvent) : (s.log e).ret = s.ret := rfl
@[simp] theorem State.log_port (e : TxEvent) : (s.log e).port = s.port := rfl
@[simp] theorem State.log_rx (e : TxEvent) : (s.log e).rx = s.rx := rfl
@[simp] theorem State.log_draws (e : TxEvent) : (s.log e).draws = s.draws := rfl
@[simp] theorem State.log_timerFirst (e : TxEvent) : (s.log e).timerFirst = s.timerFirst := rfl

@[simp] theorem State.send_jobidCtr (f : Bytes) : (s.send f).jobidCtr = s.jobidCtr := rfl
@[simp] theorem State.send_rampState (f : Bytes) : (s.send f).rampState = s.rampState := rfl
@[simp] theorem State.send_rampCur (f : Bytes) : (s.send f).rampCur = s.rampCur := rfl
@[simp] theorem State.send_rampTgt (f : Bytes) : (s.send f).rampTgt = s.rampTgt := rfl
@[simp] theorem State.send_rampDir (f : Bytes) : (s.send f).rampDir = s.rampDir := rfl
@[simp] theorem State.send_faults (f : Bytes) : (s.send f).faults = s.faults := rfl
@[simp] theorem State.send_refused (f : Bytes) : (s.send f).refused = s.refused := rfl
@[simp] theorem State.send_txLog (f : Bytes) : (s.send f).txLog = s.txLog ++ [.send f] := rfl
@[simp] theorem State.send_cfg (f : Bytes) : (s.send f).cfg = s.cfg := rfl
@[simp] theorem State.send_op (f : Bytes) : (s.send f).op = s.op := rfl
@[simp] theorem State.send_ret (f : Bytes) : (s.send f).ret = s.ret := rfl
@[simp] theorem State.send_port (f : Bytes) : (s.send f).port = s.port := rfl
@[simp] theorem State.send_rx (f : Bytes) : (s.send f).rx = s.rx := rfl
@[simp] theorem State.send_draws (f : Bytes) : (s.send f).draws = s.draws := rfl
@[simp] theorem State.send_timerFirst (f : Bytes) : (s.send f).timerFirst = s.timerFirst := rfl

@[simp] theorem State.clearBuffer_jobidCtr : (s.clearBuffer).jobidCtr = s.jobidCtr := rfl
@[simp] theorem State.clearBuffer_rampState : (s.clearBuffer).rampState = s.rampState := rfl
@[simp] theorem State.clearBuffer_rampCur : (s.clearBuffer).rampCur = s.rampCur := rfl
@[simp] theorem State.clearBuffer_rampTgt : (s.clearBuffer).rampTgt = s.rampTgt := rfl
@[simp] theorem State.clearBuffer_rampDir : (s.clearBuffer).rampDir = s.rampDir := rfl
@[simp] theorem State.clearBuffer_faults : (s.clearBuffer).faults = s.faults := rfl
@[simp] theorem State.clearBuffer_refused : (s.clearBuffer).refused = s.refused := rfl
@[simp] theorem State.clearBuffer_txLog : (s.clearBuffer).txLog = s.txLog ++ [.clearBuffer] := rfl
@[simp] theorem State.clearBuffer_cfg : (s.clearBuffer).cfg = s.cfg := rfl
@[simp] theorem State.clearBuffer_op : (s.clearBuffer).op = s.op := rfl
@[simp] theorem State.clearBuffer_ret : (s.clearBuffer).ret = s.ret := rfl
@[simp] theorem State.clearBuffer_port : (s.clearBuffer).port = s.port := rfl
@[simp] theorem State.clearBuffer_rx : (s.clearBuffer).rx = s.rx := rfl
@[simp] theorem State.clearBuffer_draws : (s.clearBuffer).draws = s.draws := rfl
@[simp] theorem State.clearBuffer_timerFirst : (s.clearBuffer).timerFirst = s.timerFirst := rfl

@[simp] theorem State.raise_jobidCtr (f : StickyFault) : (s.raise f).jobidCtr = s.jobidCtr := rfl
@[simp] theorem State.raise_rampState (f : StickyFault) : (s.raise f).rampState = s.rampState := rfl
@[simp] theorem State.raise_rampCur (f : StickyFault) : (s.raise f).rampCur = s.rampCur := rfl
@[simp] theorem State.raise_rampTgt (f : StickyFault) : (s.raise f).rampTgt = s.rampTgt := rfl
@[simp] theorem State.raise_rampDir (f : StickyFault) : (s.raise f).rampDir = s.rampDir := rfl
@[simp] theorem State.raise_faults (f : StickyFault) : (s.raise f).faults = insertFault s.faults f := rfl
@[simp] theorem State.raise_refused (f : StickyFault) : (s.raise f).refused = s.refused := rfl
@[simp] theorem State.raise_txLog (f : StickyFault) : (s.raise f).txLog = s.txLog := rfl
@[simp] theorem State.raise_cfg (f : StickyFault) : (s.raise f).cfg = s.cfg := rfl
@[simp] theorem State.raise_op (f : StickyFault) : (s.raise f).op = .idle := rfl
@[simp] theorem State.raise_ret (f : StickyFault) : (s.raise f).ret = none := rfl
@[simp] theorem State.raise_port (f : StickyFault) : (s.raise f).port = s.port := rfl
@[simp] theorem State.raise_rx (f : StickyFault) : (s.raise f).rx = s.rx := rfl
@[simp] theorem State.raise_draws (f : StickyFault) : (s.raise f).draws = s.draws := rfl
@[simp] theorem State.raise_timerFirst (f : StickyFault) : (s.raise f).timerFirst = s.timerFirst := rfl

@[simp] theorem State.reply_jobidCtr (st : Status) : (s.reply st).jobidCtr = s.jobidCtr := rfl
@[simp] theorem State.reply_rampState (st : Status) : (s.reply st).rampState = s.rampState := rfl
@[simp] theorem State.reply_rampCur (st : Status) : (s.reply st).rampCur = s.rampCur := rfl
@[simp] theorem State.reply_rampTgt (st : Status) : (s.reply st).rampTgt = s.rampTgt := rfl
@[simp] theorem State.reply_rampDir (st : Status) : (s.reply st).rampDir = s.rampDir := rfl
@[simp] theorem State.reply_faults (st : Status) : (s.reply st).faults = s.faults := rfl
@[simp] theorem State.reply_refused (st : Status) : (s.reply st).refused = s.refused := rfl
@[simp] theorem State.reply_txLog (st : Status) : (s.reply st).txLog = s.txLog := rfl
@[simp] theorem State.reply_cfg (st : Status) : (s.reply st).cfg = s.cfg := rfl
@[simp] theorem State.reply_op (st : Status) : (s.reply st).op = .idle := rfl
@[simp] theorem State.reply_ret (st : Status) : (s.reply st).ret = some st := rfl
@[simp] theorem State.reply_port (st : Status) : (s.reply st).port = s.port := rfl
@[simp] theorem State.reply_rx (st : Status) : (s.reply st).rx = s.rx := rfl
@[simp] theorem State.reply_draws (st : Status) : (s.reply st).draws = s.draws := rfl
@[simp] theorem State.reply_timerFirst (st : Status) : (s.reply st).timerFirst = s.timerFirst := rfl

@[simp] theorem State.await_jobidCtr (p : Progress) : (s.await p).jobidCtr = s.jobidCtr := rfl
@[simp] theorem State.await_rampState (p : Progress) : (s.await p).rampState = s.rampState := rfl
@[simp] theorem State.await_rampCur (p : Progress) : (s.await p).rampCur = s.rampCur := rfl
@[simp] theorem State.await_rampTgt (p : Progress) : (s.await p).rampTgt = s.rampTgt := rfl
@[simp] theorem State.await_rampDir (p : Progress) : (s.await p).rampDir = s.rampDir := rfl
@[simp] theorem State.await_faults (p : Progress) : (s.await p).faults = s.faults := rfl
@[simp] theorem State.await_refused (p : Progress) : (s.await p).refused = s.refused := rfl
@[simp] theorem State.await_txLog (p : Progress) : (s.await p).txLog = s.txLog := rfl
@[simp] theorem State.await_cfg (p : Progress) : (s.await p).cfg = s.cfg := rfl
@[simp] theorem State.await_op (p : Progress) : (s.await p).op = p := rfl
@[simp] theorem State.await_ret (p : Progress) : (s.await p).ret = none := rfl
@[simp] theorem State.await_port (p : Progress) : (s.await p).port = s.port := rfl
@[simp] theorem State.await_rx (p : Progress) : (s.await p).rx = s.rx := rfl
@[simp] theorem State.await_draws (p : Progress) : (s.await p).draws = s.draws := rfl
@[simp] theorem State.await_timerFirst (p : Progress) : (s.await p).timerFirst = s.timerFirst := rfl

@[simp] theorem State.markRefused_jobidCtr : (s.markRefused).jobidCtr = s.jobidCtr := rfl
@[simp] theorem State.markRefused_rampState : (s.markRefused).rampState = s.rampState := rfl
@[simp] theorem State.markRefused_rampCur : (s.markRefused).rampCur = s.rampCur := rfl
@[simp] theorem State.markRefused_rampTgt : (s.markRefused).rampTgt = s.rampTgt := rfl
@[simp] theorem State.markRefused_rampDir : (s.markRefused).rampDir = s.rampDir := rfl
@[simp] theorem State.markRefused_faults : (s.markRefused).faults = s.faults := rfl
@[simp] theorem State.markRefused_refused : (s.markRefused).refused = true := rfl
@[simp] theorem State.markRefused_txLog : (s.markRefused).txLog = s.txLog := rfl
@[simp] theorem State.markRefused_cfg : (s.markRefused).cfg = s.cfg := rfl
@[simp] theorem State.markRefused_op : (s.markRefused).op = s.op := rfl
@[simp] theorem State.markRefused_ret : (s.markRefused).ret = none := rfl
@[simp] theorem State.markRefused_port : (s.markRefused).port = s.port := rfl
@[simp] theorem State.markRefused_rx : (s.markRefused).rx = s.rx := rfl
@[simp] theorem State.markRefused_draws : (s.markRefused).draws = s.draws := rfl
@[simp] theorem State.markRefused_timerFirst : (s.markRefused).timerFirst = s.timerFirst := rfl

@[simp] theorem resetRegisters_jobidCtr : (resetRegisters s).jobidCtr = 0 := rfl
@[simp] theorem resetRegisters_rampState : (resetRegisters s).rampState = .idle := rfl
@[simp] theorem resetRegisters_rampCur : (resetRegisters s).rampCur = s.cfg.bootFreq := rfl
@[simp] theorem resetRegisters_rampTgt : (resetRegisters s).rampTgt = s.cfg.bootFreq := rfl
@[simp] theorem resetRegisters_rampDir : (resetRegisters s).rampDir = .none := rfl
@[simp] theorem resetRegisters_faults : (resetRegisters s).faults = s.faults := rfl
@[simp] theorem resetRegisters_refused : (resetRegisters s).refused = s.refused := rfl
@[simp] theorem resetRegisters_txLog : (resetRegisters s).txLog = s.txLog := rfl
@[simp] theorem resetRegisters_cfg : (resetRegisters s).cfg = s.cfg := rfl
@[simp] theorem resetRegisters_op : (resetRegisters s).op = s.op := rfl
@[simp] theorem resetRegisters_ret : (resetRegisters s).ret = s.ret := rfl
@[simp] theorem resetRegisters_port : (resetRegisters s).port = s.port := rfl
@[simp] theorem resetRegisters_rx : (resetRegisters s).rx = s.rx := rfl
@[simp] theorem resetRegisters_draws : (resetRegisters s).draws = s.draws := rfl
@[simp] theorem resetRegisters_timerFirst : (resetRegisters s).timerFirst = s.timerFirst := rfl

@[simp] theorem State.dropAnswer_jobidCtr : s.dropAnswer.jobidCtr = s.jobidCtr := by
  unfold State.dropAnswer; split <;> rfl
@[simp] theorem State.dropAnswer_rampState : s.dropAnswer.rampState = s.rampState := by
  unfold State.dropAnswer; split <;> rfl
@[simp] theorem State.dropAnswer_rampCur : s.dropAnswer.rampCur = s.rampCur := by
  unfold State.dropAnswer; split <;> rfl
@[simp] theorem State.dropAnswer_rampTgt : s.dropAnswer.rampTgt = s.rampTgt := by
  unfold State.dropAnswer; split <;> rfl
@[simp] theorem State.dropAnswer_rampDir : s.dropAnswer.rampDir = s.rampDir := by
  unfold State.dropAnswer; split <;> rfl
@[simp] theorem State.dropAnswer_faults : s.dropAnswer.faults = s.faults := by
  unfold State.dropAnswer; split <;> rfl
@[simp] theorem State.dropAnswer_refused : s.dropAnswer.refused = s.refused := by
  unfold State.dropAnswer; split <;> rfl
@[simp] theorem State.dropAnswer_txLog : s.dropAnswer.txLog = s.txLog := by
  unfold State.dropAnswer; split <;> rfl
@[simp] theorem State.dropAnswer_cfg : s.dropAnswer.cfg = s.cfg := by
  unfold State.dropAnswer; split <;> rfl
@[simp] theorem State.dropAnswer_op : s.dropAnswer.op = s.op := by
  unfold State.dropAnswer; split <;> rfl
@[simp] theorem State.dropAnswer_ret : s.dropAnswer.ret = s.ret := by
  unfold State.dropAnswer; split <;> rfl
@[simp] theorem State.dropAnswer_port : s.dropAnswer.port = s.port := by
  unfold State.dropAnswer; split <;> rfl
@[simp] theorem State.dropAnswer_timerFirst : s.dropAnswer.timerFirst = s.timerFirst := by
  unfold State.dropAnswer; split <;> rfl

end Sys2Proof.Machine
end

