-- ==== Sys2Proof/Laws/Ops.lean ====
section
/-! SUPPORT. What the shared operations can do, one lemma each, and what a step can be. -/

namespace Sys2Proof.Machine

/-! ## Sends and receives -/

/-- Several Sends append their frames to TX_LOG in order, and change nothing else. -/
theorem sendAll_eq (s : State) (fs : List Bytes) :
    s.sendAll fs = { s with txLog := s.txLog ++ fs.map .send } := by
  induction fs generalizing s with
  | nil => simp [State.sendAll]
  | cons f fs ih =>
    have h : s.sendAll (f :: fs) = (s.send f).sendAll fs := rfl
    rw [h, ih]
    simp [State.send, State.log]

/-- A Receive answered by `a` appends one entry to TX_LOG, and changes nothing else. -/
@[simp] theorem receiveFrom_after (s : State) (a : Answer) (n t : Nat) :
    (s.receiveFrom a n t).after = s.log (.receive n t (answerRc n a) (answerBuf n a)) := rfl

@[simp] theorem receiveFrom_rc (s : State) (a : Answer) (n t : Nat) : (s.receiveFrom a n t).rc = answerRc n a := rfl

@[simp] theorem receiveFrom_buf (s : State) (a : Answer) (n t : Nat) : (s.receiveFrom a n t).buf = answerBuf n a := rfl

/-- With an answer in `rx`, a Receive takes that answer. -/
theorem receive_cons {s : State} {a : Answer} {rest : List Answer} (h : s.rx = a :: rest) (n t : Nat) :
    s.receive n t = State.receiveFrom { s with rx := rest } a n t := by
  simp [State.receive, State.nextAnswer, State.dropAnswer, h]

/-- A transport code lies between -1 and the number of bytes asked for (R45). -/
theorem answerRc_bounds (n : Nat) (a : Answer) : -1 ≤ answerRc n a ∧ answerRc n a ≤ n := by
  cases a with
  | bytes bs => simp only [answerRc, List.length_take]; omega
  | error => simp only [answerRc]; omega

/-- The bytes received are as many as the code says, where it is not an error (R45). -/
theorem answerBuf_length (n : Nat) (a : Answer) (h : answerRc n a ≠ -1) :
    ((answerBuf n a).length : Int) = answerRc n a := by
  cases a with
  | bytes bs => rfl
  | error => exact absurd rfl h

/-! ## Faults -/

/-- A raised fault is in FAULTS (R28). -/
theorem mem_insertFault (fs : List StickyFault) (f : StickyFault) : f ∈ insertFault fs f := by
  unfold insertFault; split <;> simp_all

/-- Raising a fault removes none (R28). -/
theorem subset_insertFault (fs : List StickyFault) (f : StickyFault) : fs ⊆ insertFault fs f := by
  unfold insertFault; split <;> simp

/-- FAULTS stays a list without repeats (log 13). -/
theorem nodup_insertFault {fs : List StickyFault} (f : StickyFault) (h : fs.Nodup) : (insertFault fs f).Nodup := by
  unfold insertFault
  split
  · exact h
  · rename_i hf
    exact List.nodup_append.mpr ⟨h, by simp, fun a ha b hb e => hf (by simp at hb; rwa [← hb, ← e])⟩

/-! ## How operations end -/

@[simp] theorem conclude_reply (s s' : State) (st : Status) : s.conclude (.reply st s') = s'.reply st := rfl

@[simp] theorem conclude_fault (s : State) (f : StickyFault) : s.conclude (.fault f) = s.raise f := rfl

@[simp] theorem conclude_await (s s' : State) (p : Progress) : s.conclude (.await p s') = s'.await p := rfl

/-- SETFREQ ends in one of four ways (R172): unsupported, out of range, a fault, or one frequency frame. -/
theorem setFrequency_cases (c : Caller) (s : State) (f : Freq) :
    setFrequency c s f = .reply .errUnsupported s ∨
    setFrequency c s f = .reply .errPllRange s ∨
    (f < 0 ∧ setFrequency c s f = .fault (.operand (.freq f))) ∨
    (c = .host ∧ freqHazard s f = true ∧ setFrequency c s f = .fault (.hazardFreq f)) ∨
    ∃ e, pllLookup s.cfg.pllTable f = some e ∧
      setFrequency c s f = .reply (.ok (.freq e.freq)) (s.send (freqFrame s.cfg e)) := by
  unfold setFrequency
  split
  · exact .inl rfl
  · split
    · exact .inr (.inr (.inl ⟨‹_›, rfl⟩))
    · split
      · exact .inr (.inl rfl)
      · rename_i e he
        split
        · rename_i h; exact .inr (.inr (.inr (.inl ⟨h.1, h.2, rfl⟩)))
        · exact .inr (.inr (.inr (.inr ⟨e, he, rfl⟩)))

/-- RAMP_REQ ends in one of four ways (R191). -/
theorem requestRamp_cases (s : State) (f : Freq) :
    (f < 0 ∧ requestRamp s f = .fault (.operand (.freq f))) ∨
    (0 ≤ f ∧ s.rampState ≠ .idle ∧ requestRamp s f = .reply .errBusy s) ∨
    (0 ≤ f ∧ s.rampState = .idle ∧ absDiff s.rampCur f ≤ s.cfg.eps ∧ requestRamp s f = .reply (.ok .none) s) ∨
    (0 ≤ f ∧ s.rampState = .idle ∧ s.cfg.eps < absDiff s.rampCur f ∧
      requestRamp s f = .reply (.ok .none)
        { s with rampTgt := f, rampDir := (if s.rampCur < f then .up else .down), rampState := .stepping }) := by
  unfold requestRamp
  split
  · exact .inl ⟨‹_›, rfl⟩
  · rename_i hf
    have hf : 0 ≤ f := not_lt.mp hf
    split
    · exact .inr (.inl ⟨hf, ‹_›, rfl⟩)
    · rename_i hs
      split
      · exact .inr (.inr (.inl ⟨hf, not_not.mp hs, ‹_›, rfl⟩))
      · rename_i he
        exact .inr (.inr (.inr ⟨hf, not_not.mp hs, not_le.mp he, rfl⟩))

/-- A waiting RAMP or INIT either goes on waiting or returns one status; nothing else of the state changes. -/
theorem resume_cases (s : State) : s.resume = s ∨ (s.rampState = .idle ∧ ∃ st, s.resume = s.reply st) := by
  unfold State.resume
  split
  · split
    · exact .inr ⟨‹_›, _, rfl⟩
    · exact .inl rfl
  · split
    · exact .inr ⟨‹_›, _, rfl⟩
    · exact .inl rfl
  all_goals exact .inl rfl

/-! ## The step -/

/-- With no host operation in progress, the step issues the head of the port. -/
theorem step_issue {s : State} {it : Item} {rest : List Item} (hop : s.op = .idle) (hp : s.port = it :: rest) :
    step s = issue it { s with port := rest } := by
  simp [step, oneStep, hop, hp]

/-- While a host operation is in progress, the step is that operation's next event. -/
theorem step_progress {s : State} (hop : s.op ≠ .idle) : step s = progress s := by
  simp [step, oneStep, hop]

/-- With nothing issued and no host operation in progress, the step is the ramp's next event. -/
theorem step_rampEvent {s : State} (hop : s.op = .idle) (hp : s.port = []) : step s = rampEvent s := by
  simp [step, oneStep, hop, hp]

end Sys2Proof.Machine
end

