-- ==== Sys2Proof/Laws/PerInstr.lean ====
section
/-! SUPPORT. Per instruction: the encoder's item has the kind, match and mask that the opcode table gives its row. -/

namespace Sys2Proof.Laws

/-- The word of an item that the opcode table matches: the operation number, the header byte, or the two preamble bytes
of a response with its first byte high. -/
def keyWord : Item → Option (BitVec 16)
  | .host (op :: _) => some (op.setWidth 16)
  | .frame (_ :: _ :: h :: _) => some (h.setWidth 16)
  | .result (a :: b :: _) => some (a ++ b)
  | .chipid (a :: b :: _) => some (a ++ b)
  | _ => none

/-- The match and mask of an instruction's row of the opcode table. -/
def tableRow : Instr → BitVec 16 × BitVec 16
  | .frameSetaddr _ => (0x40, 0xFF)
  | .frameWrite _ _ _ _ _ _ _ => (0x41, 0xEF)
  | .frameRead _ _ _ => (0x42, 0xEF)
  | .frameInactive _ => (0x43, 0xEF)
  | .frameJob _ _ => (0x21, 0xEF)
  | .respResult _ _ _ _ _ _ _ => (0xAA55, 0xFFFF)
  | .respChipid _ => (0xAA55, 0xFFFF)
  | .crc5 _ => (0x01, 0xFF)
  | .crc16f _ => (0x02, 0xFF)
  | .rev8 _ => (0x03, 0xFF)
  | .pow2floor _ => (0x04, 0xFF)
  | .maskval _ => (0x05, 0xFF)
  | .maskdecode _ _ _ _ => (0x06, 0xFF)
  | .cmdframe _ _ _ => (0x10, 0xFF)
  | .wrreg _ _ _ _ => (0x11, 0xFF)
  | .rdreg _ _ _ => (0x12, 0xFF)
  | .probe => (0x13, 0xFF)
  | .setaddr _ => (0x14, 0xFF)
  | .addrassign _ => (0x15, 0xFF)
  | .inactive => (0x16, 0xFF)
  | .diffmask _ => (0x17, 0xFF)
  | .freqframe _ => (0x18, 0xFF)
  | .jobframe _ _ => (0x19, 0xFF)
  | .init _ _ _ => (0x1A, 0xFF)
  | .recvResult => (0x20, 0xFF)
  | .checkChipid _ _ => (0x21, 0xFF)
  | .enumCount => (0x22, 0xFF)
  | .pllLookup _ => (0x30, 0xFF)
  | .setfreq _ => (0x31, 0xFF)
  | .rampReq _ => (0x40, 0xFF)
  | .rampStep => (0x41, 0xFF)
  | .rampSettled => (0x42, 0xFF)
  | .ramp _ => (0x43, 0xFF)
  | .reset => (0x7F, 0xFF)

/-- The encoding of an instruction matches its row of the opcode table. -/
def TableForm.Statement (i : Instr) : Prop :=
  ∃ w, keyWord (encode i) = some w ∧ w &&& (tableRow i).2 = (tableRow i).1

theorem TableForm.frameSetaddr (a : Byte) : TableForm.Statement (.frameSetaddr a) :=
  ⟨_, rfl, by simp only [tableRow]; decide⟩

theorem TableForm.frameWrite (g : Group) (chip : Byte) (reg : Byte) (d0 : Byte) (d1 : Byte) (d2 : Byte) (d3 : Byte) : TableForm.Statement (.frameWrite g chip reg d0 d1 d2 d3) :=
  ⟨_, rfl, by cases g <;> simp only [tableRow] <;> decide⟩

theorem TableForm.frameRead (g : Group) (chip : Byte) (reg : Byte) : TableForm.Statement (.frameRead g chip reg) :=
  ⟨_, rfl, by cases g <;> simp only [tableRow] <;> decide⟩

theorem TableForm.frameInactive (g : Group) : TableForm.Statement (.frameInactive g) :=
  ⟨_, rfl, by cases g <;> simp only [tableRow] <;> decide⟩

theorem TableForm.frameJob (g : Group) (f : JobFields) : TableForm.Statement (.frameJob g f) :=
  ⟨_, rfl, by cases g <;> simp only [tableRow] <;> decide⟩

theorem TableForm.respResult (b0 : Byte) (b1 : Byte) (b2 : Byte) (b3 : Byte) (m : Byte) (i : Byte) (c : Byte) : TableForm.Statement (.respResult b0 b1 b2 b3 m i c) :=
  ⟨_, rfl, by simp only [tableRow]; decide⟩

theorem TableForm.respChipid (body : Bytes) : TableForm.Statement (.respChipid body) :=
  ⟨_, rfl, by simp only [tableRow]; decide⟩

theorem TableForm.crc5 (bs : Bytes) : TableForm.Statement (.crc5 bs) :=
  ⟨_, rfl, by simp only [tableRow]; decide⟩

theorem TableForm.crc16f (bs : Bytes) : TableForm.Statement (.crc16f bs) :=
  ⟨_, rfl, by simp only [tableRow]; decide⟩

theorem TableForm.rev8 (b : Byte) : TableForm.Statement (.rev8 b) :=
  ⟨_, rfl, by simp only [tableRow]; decide⟩

theorem TableForm.pow2floor (d : Word32) : TableForm.Statement (.pow2floor d) :=
  ⟨_, rfl, by simp only [tableRow]; decide⟩

theorem TableForm.maskval (d : Word32) : TableForm.Statement (.maskval d) :=
  ⟨_, rfl, by simp only [tableRow]; decide⟩

theorem TableForm.maskdecode (m0 : Byte) (m1 : Byte) (m2 : Byte) (m3 : Byte) : TableForm.Statement (.maskdecode m0 m1 m2 m3) :=
  ⟨_, rfl, by simp only [tableRow]; decide⟩

theorem TableForm.cmdframe (g : Group) (cmd : Nat) (p : Bytes) : TableForm.Statement (.cmdframe g cmd p) :=
  ⟨_, rfl, by simp only [tableRow]; decide⟩

theorem TableForm.wrreg (g : Group) (chip : Byte) (reg : Byte) (data : Bytes) : TableForm.Statement (.wrreg g chip reg data) :=
  ⟨_, rfl, by simp only [tableRow]; decide⟩

theorem TableForm.rdreg (g : Group) (chip : Byte) (reg : Byte) : TableForm.Statement (.rdreg g chip reg) :=
  ⟨_, rfl, by simp only [tableRow]; decide⟩

theorem TableForm.probe : TableForm.Statement .probe :=
  ⟨_, rfl, by simp only [tableRow]; decide⟩

theorem TableForm.setaddr (a : Byte) : TableForm.Statement (.setaddr a) :=
  ⟨_, rfl, by simp only [tableRow]; decide⟩

theorem TableForm.addrassign (n : Nat) : TableForm.Statement (.addrassign n) :=
  ⟨_, rfl, by simp only [tableRow]; decide⟩

theorem TableForm.inactive : TableForm.Statement .inactive :=
  ⟨_, rfl, by simp only [tableRow]; decide⟩

theorem TableForm.diffmask (d : Word32) : TableForm.Statement (.diffmask d) :=
  ⟨_, rfl, by simp only [tableRow]; decide⟩

theorem TableForm.freqframe (e : PllEntry) : TableForm.Statement (.freqframe e) :=
  ⟨_, rfl, by simp only [tableRow]; decide⟩

theorem TableForm.jobframe (g : Group) (job : JobDesc) : TableForm.Statement (.jobframe g job) :=
  ⟨_, rfl, by simp only [tableRow]; decide⟩

theorem TableForm.init (f : Freq) (n : Nat) (d : Word32) : TableForm.Statement (.init f n d) :=
  ⟨_, rfl, by simp only [tableRow]; decide⟩

theorem TableForm.recvResult : TableForm.Statement .recvResult :=
  ⟨_, rfl, by simp only [tableRow]; decide⟩

theorem TableForm.checkChipid (rc : Int) (buf : Bytes) : TableForm.Statement (.checkChipid rc buf) :=
  ⟨_, rfl, by simp only [tableRow]; decide⟩

theorem TableForm.enumCount : TableForm.Statement .enumCount :=
  ⟨_, rfl, by simp only [tableRow]; decide⟩

theorem TableForm.pllLookup (f : Freq) : TableForm.Statement (.pllLookup f) :=
  ⟨_, rfl, by simp only [tableRow]; decide⟩

theorem TableForm.setfreq (f : Freq) : TableForm.Statement (.setfreq f) :=
  ⟨_, rfl, by simp only [tableRow]; decide⟩

theorem TableForm.rampReq (f : Freq) : TableForm.Statement (.rampReq f) :=
  ⟨_, rfl, by simp only [tableRow]; decide⟩

theorem TableForm.rampStep : TableForm.Statement .rampStep :=
  ⟨_, rfl, by simp only [tableRow]; decide⟩

theorem TableForm.rampSettled : TableForm.Statement .rampSettled :=
  ⟨_, rfl, by simp only [tableRow]; decide⟩

theorem TableForm.ramp (f : Freq) : TableForm.Statement (.ramp f) :=
  ⟨_, rfl, by simp only [tableRow]; decide⟩

theorem TableForm.reset : TableForm.Statement .reset :=
  ⟨_, rfl, by simp only [tableRow]; decide⟩

end Sys2Proof.Laws
end

