-- ==== Sys2Proof/Laws/Steps.lean ====
section
/-! SUPPORT. What an instruction can do to the state, and what each event of a step can do, said once: claims about every
instruction or every step cite these lemmas and unfold no meaning. -/

namespace Sys2Proof.Machine

/-! ## The frames the block composes itself -/

/-- `f` is a command frame that fits its length byte.  With the values of R7 its form is legal, and its write to the mask
register, unless that is the PLL register, carries a value 2^k - 1. -/
def ComposedCommand (c : Cfg) (f : Bytes) : Prop :=
  ∃ g cmd p, f = cmdframe c.wire g cmd p ∧ p.length ≤ 252 ∧
    (c.wire = Config.wire → cmd.toNat ≤ 3 ∧ ¬(cmd = Config.wire.cmdSetaddr ∧ g = .all) ∧
      ∀ chip reg data, cmd = Config.wire.cmdWrite → p = chip :: reg :: data → reg = c.family.ticketMaskReg →
        maskLegal data = true ∨ reg = c.family.pll0Reg)

theorem composed_read (c : Cfg) (g : Group) (chip reg : Byte) : ComposedCommand c (readFrame c.wire g chip reg) := by
  refine ⟨g, c.wire.cmdRead, [chip, reg], rfl, by simp, fun h => ?_⟩
  rw [h]
  exact ⟨by decide, fun e => absurd e.1 (by decide), fun _ _ _ e => absurd e (by decide)⟩

theorem composed_setaddr (c : Cfg) (a : Byte) : ComposedCommand c (setaddrFrame c.wire a) := by
  refine ⟨.single, c.wire.cmdSetaddr, [a, 0x00], rfl, by simp, fun h => ?_⟩
  rw [h]
  exact ⟨by decide, by simp, fun _ _ _ e => absurd e (by decide)⟩

theorem composed_inactive (c : Cfg) (g : Group) : ComposedCommand c (inactiveFrame c.wire g) := by
  refine ⟨g, c.wire.cmdInactive, [0x00, 0x00], rfl, by simp, fun h => ?_⟩
  rw [h]
  exact ⟨by decide, fun e => absurd e.1 (by decide), fun _ _ _ e => absurd e (by decide)⟩

theorem composed_freq (c : Cfg) (e : PllEntry) : ComposedCommand c (freqFrame c e) := by
  refine ⟨.all, c.wire.cmdWrite, _, rfl, by simp [plldata], fun h => ?_⟩
  rw [h]
  refine ⟨by decide, fun e => absurd e.1 (by decide), ?_⟩
  rintro chip reg data - hp -
  injection hp with _ hp
  injection hp with hr _
  exact .inr hr.symm

theorem composed_addrs (c : Cfg) (n : Nat) : ∀ f ∈ addrFrames c.wire n, ComposedCommand c f := by
  intro f hf
  simp only [addrFrames, List.mem_map] at hf
  obtain ⟨i, _, rfl⟩ := hf
  exact composed_setaddr c _

/-! ## What an instruction can do -/

/-- The state in which a frequency write by the sequencer leaves the ramp (R193). -/
def written (s : State) : State :=
  { s with rampCur := s.rampNextValue, rampState := .settling }

/-- The state in which an aborted ramp is left before a waiting operation returns (R193). -/
def abortedRamp (s : State) : State :=
  { s with rampTgt := s.rampCur, rampDir := .none, rampState := .idle, op := setRampStatus .errRampAborted s.op }

/-- The state in which a settle event leaves the ramp before a waiting operation returns (R194). -/
def settledRamp (s : State) : State :=
  if s.rampCur = s.rampTgt then { s.log .settle with rampDir := .none, rampState := .idle }
  else { s.log .settle with rampState := .stepping }

/-- Every way an instruction can change the state. -/
inductive Effect (s : State) : Instr → State → Prop where
  /-- It returns a status and writes nothing. -/
  | replied (i st) : Effect s i (s.reply st)
  /-- It faults. -/
  | raised (i f) : Effect s i (s.raise f)
  /-- It sends command frames and returns OK, with or without a value. -/
  | sent (i v) (fs : List Bytes) (h : ∀ f ∈ fs, ComposedCommand s.cfg f ∨ ∃ d, f = maskFrame s.cfg d) :
      Effect s i ((s.sendAll fs).reply (.ok v))
  /-- It allocates a job-id and sends a job frame. -/
  | jobSent (i g job) (hk : (job.k = 1 ∨ job.k = 4) ∧ job.midstates.length = job.k)
      (hi : i = .jobframe g job ∨ ∃ f, i = .frameJob g f ∧ job = fieldsJob f) :
      Effect s i ((({ s with jobidCtr := nextJobId s.cfg s.jobidCtr } : State).send
        (jobframe s.cfg.wire s.cfg.jobHeaderCmd g (jobpayload (nextJobId s.cfg s.jobidCtr) job))).reply (.ok .none))
  /-- It receives one answer, perhaps clears the buffer, and returns a status. -/
  | received (i) (s' : State) (a : Answer) (n ms : Nat) (clear : Bool) (st : Status) (hs : s' = s ∨ s' = s.dropAnswer) :
      Effect s i ((if clear = true then (s'.receiveFrom a n ms).after.clearBuffer else (s'.receiveFrom a n ms).after).reply st)
  /-- ENUM_COUNT begins to wait. -/
  | enumBegun (i) : Effect s i (s.await (.enumCount 0))
  /-- INIT sends its probe and begins to wait. -/
  | initBegun (i f n d) (hf : 0 ≤ f) (hn : 1 ≤ n ∧ n ≤ 256) (hs : s.rampState = .idle) :
      Effect s i ((s.send (readFrame s.cfg.wire .all 0x00 0x00)).await (.initEnum f n d 0))
  /-- A ramp is requested, by RAMP_REQ (`p = none`) or by RAMP. -/
  | rampBegun (i f) (p : Option Progress) (hf : 0 ≤ f) (hs : s.rampState = .idle) (he : s.cfg.eps < absDiff s.rampCur f)
      (hi : (i = .rampReq f ∧ p = none) ∨ (i = .ramp f ∧ p = some (.ramp (.ok .none)))) :
      Effect s i
        (let t := { s with rampTgt := f, rampDir := (if s.rampCur < f then .up else .down), rampState := .stepping }
        match p with
        | none => t.reply (.ok .none)
        | some q => t.await q)
  /-- RESET. -/
  | wasReset (i) (hi : i = .reset) : Effect s i ((resetRegisters s).reply (.ok .none))
  /-- An event that is not enabled. -/
  | nothing (i) (hi : i = .rampStep ∨ i = .rampSettled) : Effect s i s
  /-- RAMP_STEP writes a frequency. -/
  | stepped (i) (hi : i = .rampStep) (he : stepEnabled s = true) (e : PllEntry) :
      Effect s i (written (s.send (freqFrame s.cfg e)))
  /-- RAMP_STEP's write fails and the ramp goes on. -/
  | skipped (i) (hi : i = .rampStep) (he : stepEnabled s = true) : Effect s i (written s)
  /-- RAMP_STEP's write fails and the ramp ends. -/
  | aborted (i) (hi : i = .rampStep) (he : stepEnabled s = true) : Effect s i (abortedRamp s).resume
  /-- RAMP_STEP finds a negative next value, which no state of the invariant has. -/
  | faultedStep (i) (hi : i = .rampStep) (he : stepEnabled s = true) (hn : s.rampNextValue < 0) :
      Effect s i (s.raise (.operand (.freq s.rampNextValue)))
  /-- RAMP_SETTLED. -/
  | settled (i) (hi : i = .rampSettled) (he : s.rampState = .settling) : Effect s i (settledRamp s).resume

theorem sent_one {s : State} (i : Instr) (v : Value) {f : Bytes}
    (h : ComposedCommand s.cfg f ∨ ∃ d, f = maskFrame s.cfg d) : Effect s i ((s.send f).reply (.ok v)) :=
  .sent i v [f] (by simpa using h)

theorem writeRegister_effect (i : Instr) (s : State) (g : Group) (chip reg : Byte) (data : Bytes) :
    Effect s i (s.conclude (writeRegister s g chip reg data)) := by
  unfold writeRegister
  split
  · exact .raised ..
  · rename_i hl
    split
    · exact .raised ..
    · rename_i hw
      refine sent_one i _ (.inl ⟨g, s.cfg.wire.cmdWrite, _, rfl, by simp; omega, fun h => ?_⟩)
      rw [h]
      refine ⟨by decide, fun e => absurd e.1 (by decide), ?_⟩
      rintro c r d - hp hr
      injection hp with _ hp
      injection hp with h1 h2
      subst h1 h2
      unfold wrhazard at hw
      split at hw
      · cases hw
      · rename_i hm
        exact .inl (by simpa [hr] using hm)

/-- A command code is one of the four, and is the number it is read from. -/
theorem commandCode_some {w : Wire} {n : Nat} {c : BitVec 4} (h : commandCode w n = some c) :
    c.toNat = n ∧ c ∈ [w.cmdSetaddr, w.cmdWrite, w.cmdRead, w.cmdInactive] :=
  ⟨by simpa using List.find?_some h, List.mem_of_find?_eq_some h⟩

/-- The command codes of R7 are at most 3. -/
theorem code_le_three : ∀ c : BitVec 4,
    c ∈ [Config.wire.cmdSetaddr, Config.wire.cmdWrite, Config.wire.cmdRead, Config.wire.cmdInactive] → c.toNat ≤ 3 := by
  decide

theorem commandFrame_effect (i : Instr) (s : State) (g : Group) (cmd : Nat) (p : Bytes) :
    Effect s i (s.conclude (commandFrame s g cmd p)) := by
  unfold commandFrame
  split
  · exact .raised ..
  · rename_i c hc
    split
    · exact .raised ..
    · rename_i hg
      split
      · exact .raised ..
      · rename_i hl
        split
        · exact .raised ..
        · rename_i hw
          refine sent_one i _ (.inl ⟨g, c, p, rfl, by omega, fun h => ?_⟩)
          have hm := (commandCode_some hc).2
          rw [h] at hg hm
          refine ⟨code_le_three c hm, hg, ?_⟩
          rintro chip r d rfl rfl hr
          simp only [rawHazard, wrhazard, h, if_true] at hw
          split at hw
          · cases hw
          · rename_i hm
            exact .inl (by simpa [hr] using hm)

theorem sendJob_effect (i : Instr) (s : State) (g : Group) (job : JobDesc)
    (hi : i = .jobframe g job ∨ ∃ f, i = .frameJob g f ∧ job = fieldsJob f) :
    Effect s i (s.conclude (sendJob s g job)) := by
  unfold sendJob
  split
  · exact .raised ..
  · rename_i h
    exact .jobSent i g job (by rw [not_or, not_and_or, not_not, not_not, not_not] at h; exact h) hi

theorem finishReceive_effect (i : Instr) (s s' : State) (a : Answer) (hs : s' = s ∨ s' = s.dropAnswer) :
    Effect s i (s.conclude (finishReceive s.cfg (s'.receiveFrom a s.cfg.resultLen s.cfg.workTimeoutMs))) :=
  .received i s' a _ _ _ _ hs

theorem setFrequency_effect (i : Instr) (s : State) (f : Freq) : Effect s i (s.conclude (setFrequency .host s f)) := by
  rcases setFrequency_cases .host s f with h | h | ⟨_, h⟩ | ⟨_, _, h⟩ | ⟨e, _, h⟩ <;> rw [h]
  · exact .replied ..
  · exact .replied ..
  · exact .raised ..
  · exact .raised ..
  · exact sent_one i _ (.inl (composed_freq ..))

theorem frequencyFrame_effect (i : Instr) (s : State) (e : PllEntry) : Effect s i (s.conclude (frequencyFrame s e)) := by
  unfold frequencyFrame
  split
  · exact .raised ..
  · split
    · exact .replied ..
    · split
      · exact .raised ..
      · exact sent_one i _ (.inl (composed_freq ..))

theorem requestRamp_effect (s : State) (f : Freq) : Effect s (.rampReq f) (s.conclude (requestRamp s f)) := by
  rcases requestRamp_cases s f with ⟨_, h⟩ | ⟨_, _, h⟩ | ⟨_, _, _, h⟩ | ⟨hf, hs, he, h⟩ <;> rw [h]
  · exact .raised ..
  · exact .replied ..
  · exact .replied ..
  · exact .rampBegun (.rampReq f) f none hf hs he (.inl ⟨rfl, rfl⟩)

/-- RAMP ends in one of four ways (R196); `s` need not be the state it was issued in. -/
theorem beginRamp_cases (s : State) (f : Freq) (p : Progress) (back : Status → Status) :
    (f < 0 ∧ beginRamp s f p back = .fault (.operand (.freq f))) ∨
    (0 ≤ f ∧ s.rampState ≠ .idle ∧ beginRamp s f p back = .reply (back .errBusy) s) ∨
    (0 ≤ f ∧ s.rampState = .idle ∧ absDiff s.rampCur f ≤ s.cfg.eps ∧ beginRamp s f p back = .reply (back (.ok .none)) s) ∨
    (0 ≤ f ∧ s.rampState = .idle ∧ s.cfg.eps < absDiff s.rampCur f ∧
      beginRamp s f p back = .await p
        { s with rampTgt := f, rampDir := (if s.rampCur < f then .up else .down), rampState := .stepping }) := by
  unfold beginRamp
  rcases requestRamp_cases s f with ⟨hf, h⟩ | ⟨hf, hs, h⟩ | ⟨hf, hs, he, h⟩ | ⟨hf, hs, he, h⟩ <;> rw [h]
  · exact .inl ⟨hf, rfl⟩
  · exact .inr (.inl ⟨hf, hs, rfl⟩)
  · exact .inr (.inr (.inl ⟨hf, hs, he, by simp [rampBusy, hs]⟩))
  · exact .inr (.inr (.inr ⟨hf, hs, he, rfl⟩))

theorem ramp_effect (s : State) (f : Freq) :
    Effect s (.ramp f) (s.conclude (beginRamp s f (.ramp (.ok .none)) id)) := by
  rcases beginRamp_cases s f (.ramp (.ok .none)) id with ⟨_, h⟩ | ⟨_, _, h⟩ | ⟨_, _, _, h⟩ | ⟨hf, hs, he, h⟩ <;> rw [h]
  · exact .raised ..
  · exact .replied ..
  · exact .replied ..
  · exact .rampBegun (.ramp f) f (some (.ramp (.ok .none))) hf hs he (.inr ⟨rfl, rfl⟩)

theorem beginInit_effect (i : Instr) (s : State) (f : Freq) (n : Nat) (d : Word32) :
    Effect s i (s.conclude (beginInit s f n d)) := by
  unfold beginInit
  split
  · exact .raised ..
  · rename_i hf
    split
    · exact .raised ..
    · rename_i hn
      split
      · exact .replied ..
      · rename_i hs
        exact .initBegun i f n d (not_lt.mp hf) (by omega) (not_not.mp hs)

theorem sequencerStep_effect (s : State) (he : stepEnabled s = true) : Effect s .rampStep (sequencerStep s) := by
  unfold sequencerStep
  rcases setFrequency_cases .ramp s s.rampNextValue with h | h | ⟨hn, h⟩ | ⟨hc, _, h⟩ | ⟨e, _, h⟩
  · simp only [h]
    split
    · exact .aborted _ rfl he
    · exact .skipped _ rfl he
  · simp only [h]
    split
    · exact .aborted _ rfl he
    · exact .skipped _ rfl he
  · simp only [h]
    exact .faultedStep _ rfl he hn
  · cases hc
  · simp only [h]
    exact .stepped _ rfl he e

/-- Every instruction answers a next state, and that state is one of the effects. -/
theorem exec_effect (i : Instr) (s : State) : ∃ t, exec i s = .next t ∧ Effect s i t := by
  cases i with
  | frameSetaddr a => exact ⟨_, rfl, sent_one _ _ (.inl (composed_setaddr ..))⟩
  | frameWrite g c r d0 d1 d2 d3 => exact ⟨_, rfl, writeRegister_effect ..⟩
  | frameRead g c r => exact ⟨_, rfl, sent_one _ _ (.inl (composed_read ..))⟩
  | frameInactive g => exact ⟨_, rfl, sent_one _ _ (.inl (composed_inactive ..))⟩
  | frameJob g f => exact ⟨_, rfl, sendJob_effect _ s g _ (.inr ⟨f, rfl, rfl⟩)⟩
  | respResult => exact ⟨_, rfl, finishReceive_effect _ s s _ (.inl rfl)⟩
  | respChipid => exact ⟨_, rfl, .replied ..⟩
  | crc5 => exact ⟨_, rfl, .replied ..⟩
  | crc16f => exact ⟨_, rfl, .replied ..⟩
  | rev8 => exact ⟨_, rfl, .replied ..⟩
  | pow2floor => exact ⟨_, rfl, .replied ..⟩
  | maskval => exact ⟨_, rfl, .replied ..⟩
  | maskdecode => exact ⟨_, rfl, .replied ..⟩
  | cmdframe => exact ⟨_, rfl, commandFrame_effect ..⟩
  | wrreg => exact ⟨_, rfl, writeRegister_effect ..⟩
  | rdreg => exact ⟨_, rfl, sent_one _ _ (.inl (composed_read ..))⟩
  | probe => exact ⟨_, rfl, sent_one _ _ (.inl (composed_read ..))⟩
  | setaddr => exact ⟨_, rfl, sent_one _ _ (.inl (composed_setaddr ..))⟩
  | addrassign n =>
    refine ⟨_, rfl, ?_⟩
    unfold assignAddresses
    split
    · exact .raised ..
    · exact .sent _ _ _ fun f hf => .inl (composed_addrs _ n f hf)
  | inactive => exact ⟨_, rfl, sent_one _ _ (.inl (composed_inactive ..))⟩
  | diffmask d => exact ⟨_, rfl, sent_one _ _ (.inr ⟨d, rfl⟩)⟩
  | freqframe => exact ⟨_, rfl, frequencyFrame_effect ..⟩
  | jobframe g j => exact ⟨_, rfl, sendJob_effect _ s g j (.inl rfl)⟩
  | init => exact ⟨_, rfl, beginInit_effect ..⟩
  | recvResult => exact ⟨_, rfl, finishReceive_effect _ s s.dropAnswer _ (.inr rfl)⟩
  | checkChipid => exact ⟨_, rfl, .replied ..⟩
  | enumCount => exact ⟨_, rfl, .enumBegun ..⟩
  | pllLookup f =>
    refine ⟨_, rfl, ?_⟩
    unfold lookupFreq
    split
    · exact .raised ..
    · split
      · exact .replied ..
      · exact .replied ..
  | setfreq => exact ⟨_, rfl, setFrequency_effect ..⟩
  | rampReq => exact ⟨_, rfl, requestRamp_effect ..⟩
  | rampStep =>
    refine ⟨_, rfl, ?_⟩
    split
    · exact sequencerStep_effect s ‹_›
    · exact .nothing _ (.inl rfl)
  | rampSettled =>
    refine ⟨_, rfl, ?_⟩
    split
    · rename_i h
      exact .settled _ rfl (by simpa [settleEnabled] using h)
    · exact .nothing _ (.inr rfl)
  | ramp => exact ⟨_, rfl, ramp_effect ..⟩
  | reset => exact ⟨_, rfl, .wasReset _ rfl⟩

/-- The effect of an instruction that answered `t`. -/
theorem effect_of_exec {i : Instr} {s t : State} (h : exec i s = .next t) : Effect s i t := by
  obtain ⟨u, hu, he⟩ := exec_effect i s
  rw [h] at hu
  injection hu with hu
  exact hu ▸ he

/-! ## What a step can do -/

/-- The state after the transport has answered the pending Receive of an enumeration (R152). -/
def answered (s : State) : State :=
  (s.receive s.cfg.family.chipidRespLen s.cfg.enumTimeoutMs).after

/-- Every way a round of an enumeration can go: the count is returned, the enumeration goes on, INIT finds no chips, INIT
goes on to its tail, or no enumeration is in progress. -/
theorem enumStep_cases (s : State) :
    (∃ c, s.op = .enumCount c ∧ enumStep s = (answered s).reply (.ok (.count c))) ∨
    (∃ c c', s.op = .enumCount c ∧ enumStep s = (answered s).await (.enumCount c')) ∨
    (∃ f n d, s.op = .initEnum f n d 0 ∧ enumStep s = (answered s).reply .errNoChips) ∨
    (∃ f n d c, s.op = .initEnum f n d c ∧ c ≠ 0 ∧ enumStep s = (answered s).conclude (initTail (answered s) f n d c)) ∨
    (∃ f n d c c', s.op = .initEnum f n d c ∧ enumStep s = (answered s).await (.initEnum f n d c')) ∨
    enumStep s = s := by
  unfold enumStep answered
  cases hop : s.op with
  | idle => simp
  | ramp => simp
  | initRamp => simp
  | enumCount c =>
    simp only
    split
    · exact .inl ⟨c, rfl, rfl⟩
    · exact .inr (.inl ⟨c, _, rfl, rfl⟩)
  | initEnum f n d c =>
    simp only
    split
    · split
      · rename_i hc
        subst hc
        exact .inr (.inr (.inl ⟨f, n, d, rfl, rfl⟩))
      · exact .inr (.inr (.inr (.inl ⟨f, n, d, c, rfl, ‹_›, rfl⟩)))
    · exact .inr (.inr (.inr (.inr (.inl ⟨f, n, d, c, _, rfl, rfl⟩))))

/-- One step, and then `k`. -/
theorem afterSteps_succ {s t : State} (k : Nat) (h : step s = .next t) : afterSteps (k + 1) s = afterSteps k t := by
  simp [afterSteps, h]

/-- The enumeration's count after the answer `a` (R152). -/
def countAfter (cfg : Cfg) (a : Answer) (c : Nat) : Nat :=
  if chipidVerdict cfg (answerRc cfg.family.chipidRespLen a) (answerBuf cfg.family.chipidRespLen a) = .ok .none then c + 1
  else c

/-- The state once `a`, the next of `rx`, has answered the pending Receive of an enumeration. -/
theorem answered_cons {s : State} {a : Answer} {rest : List Answer} (h : s.rx = a :: rest) :
    answered s = { s with
      rx := rest
      txLog := s.txLog ++ [.receive s.cfg.family.chipidRespLen s.cfg.enumTimeoutMs
        (answerRc s.cfg.family.chipidRespLen a) (answerBuf s.cfg.family.chipidRespLen a)] } := by
  rw [answered, receive_cons h]
  rfl

/-- ENUM_COUNT goes on after an answer with bytes. -/
theorem enumStep_count_more {s : State} {a : Answer} {rest : List Answer} {c : Nat} (h : s.rx = a :: rest)
    (ho : s.op = .enumCount c) (hp : 0 < answerRc s.cfg.family.chipidRespLen a) :
    enumStep s = (answered s).await (.enumCount (countAfter s.cfg a c)) := by
  have hn : ¬answerRc s.cfg.family.chipidRespLen a ≤ 0 := by omega
  simp [enumStep, answered, receive_cons h, ho, hn, countAnswer, countAfter]

/-- ENUM_COUNT ends at the first answer without bytes. -/
theorem enumStep_count_last {s : State} {a : Answer} {rest : List Answer} {c : Nat} (h : s.rx = a :: rest)
    (ho : s.op = .enumCount c) (hp : answerRc s.cfg.family.chipidRespLen a ≤ 0) :
    enumStep s = (answered s).reply (.ok (.count c)) := by
  simp [enumStep, answered, receive_cons h, ho, hp]

/-- INIT's enumeration goes on after an answer with bytes. -/
theorem enumStep_init_more {s : State} {a : Answer} {rest : List Answer} {f : Freq} {n : Nat} {d : Word32} {c : Nat}
    (h : s.rx = a :: rest) (ho : s.op = .initEnum f n d c) (hp : 0 < answerRc s.cfg.family.chipidRespLen a) :
    enumStep s = (answered s).await (.initEnum f n d (countAfter s.cfg a c)) := by
  have hn : ¬answerRc s.cfg.family.chipidRespLen a ≤ 0 := by omega
  simp [enumStep, answered, receive_cons h, ho, hn, countAnswer, countAfter]

/-- INIT's enumeration ends at the first answer without bytes. -/
theorem enumStep_init_last {s : State} {a : Answer} {rest : List Answer} {f : Freq} {n : Nat} {d : Word32} {c : Nat}
    (h : s.rx = a :: rest) (ho : s.op = .initEnum f n d c) (hp : answerRc s.cfg.family.chipidRespLen a ≤ 0) :
    enumStep s = if c = 0 then (answered s).reply .errNoChips
      else (answered s).conclude (initTail (answered s) f n d c) := by
  simp [enumStep, answered, receive_cons h, ho, hp]

/-- While the ramp is not settling, the step of an enumeration in progress is its next answer. -/
theorem step_enum {s : State} (hn : s.rampState ≠ .settling)
    (ho : (∃ c, s.op = .enumCount c) ∨ ∃ f n d c, s.op = .initEnum f n d c) : step s = .next (enumStep s) := by
  have ha : awaitAnswer s = .next (enumStep s) := by
    rw [awaitAnswer, if_pos]
    simpa [settleEnabled] using hn
  rcases ho with ⟨c, h⟩ | ⟨f, n, d, c, h⟩ <;>
    rw [step_progress (by rw [h]; simp), progress, h] <;> exact ha

/-- An item that spells nothing sets REFUSED, faults on an operand, or is turned away for want of the register. -/
theorem unreadable_cases (it : Item) (e : DecodeError) (s : State) :
    unreadable it e s = s.markRefused ∨ unreadable it e s = s.reply .errUnsupported ∨
      ∃ f, unreadable it e s = s.raise f := by
  unfold unreadable
  split
  · exact .inl rfl
  · unfold unreadableOp
    split
    · exact .inl rfl
    · split
      · exact .inl rfl
      · split
        · exact .inr (.inl rfl)
        · exact .inr (.inr ⟨_, rfl⟩)
  all_goals exact .inl rfl

/-- Every way a step can lead to a next state: an issued instruction, an item that spells nothing, an event of the
sequencer or the timer, the return of an operation whose ramp is at rest, or an answer of the transport. -/
theorem step_cases {s t : State} (h : step s = .next t) :
    (∃ it rest i, s.op = .idle ∧ s.port = it :: rest ∧ decodeUnder s.cfg it = .ok i ∧
      exec i { s with port := rest } = .next t) ∨
    (∃ it rest, s.op = .idle ∧ s.port = it :: rest ∧
      (t = ({ s with port := rest } : State).markRefused ∨ t = ({ s with port := rest } : State).reply .errUnsupported ∨
        ∃ f, t = ({ s with port := rest } : State).raise f)) ∨
    (s.rampState = .stepping ∧ exec .rampStep s = .next t) ∨
    (s.rampState = .settling ∧ ∃ l, exec .rampSettled { s with timerFirst := l } = .next t) ∨
    (s.rampState = .idle ∧ t = s.resume) ∨
    (s.op ≠ .idle ∧ ∃ l, t = enumStep { s with timerFirst := l }) := by
  have hramp : rampEvent s = .next t →
      (s.rampState = .stepping ∧ exec .rampStep s = .next t) ∨
      (s.rampState = .settling ∧ ∃ l, exec .rampSettled { s with timerFirst := l } = .next t) ∨
      (s.rampState = .idle ∧ t = s.resume) := by
    intro h
    unfold rampEvent at h
    split at h
    · rename_i hs
      injection h with h
      exact .inr (.inr ⟨hs, h.symm⟩)
    · exact .inl ⟨‹_›, h⟩
    · exact .inr (.inl ⟨‹_›, s.timerFirst, h⟩)
  have hans : s.op ≠ .idle → awaitAnswer s = .next t →
      (s.rampState = .settling ∧ ∃ l, exec .rampSettled { s with timerFirst := l } = .next t) ∨
      (s.op ≠ .idle ∧ ∃ l, t = enumStep { s with timerFirst := l }) := by
    intro hop h
    unfold awaitAnswer at h
    split at h
    · injection h with h
      exact .inr ⟨hop, s.timerFirst, h.symm⟩
    · rename_i hs
      split at h
      · exact .inl ⟨by simpa [settleEnabled] using hs, s.timerFirst, h⟩
      · injection h with h
        exact .inr ⟨hop, _, h.symm⟩
      · exact .inl ⟨by simpa [settleEnabled] using hs, _, h⟩
  by_cases hop : s.op = .idle
  · obtain ⟨p, hp⟩ : ∃ p, s.port = p := ⟨_, rfl⟩
    cases p with
    | nil =>
      rw [step_rampEvent hop hp] at h
      exact .inr (.inr ((hramp h).imp_right (Or.imp_right .inl)))
    | cons it rest =>
      rw [step_issue hop hp, issue] at h
      split at h
      · exact .inl ⟨it, rest, _, hop, hp, ‹_›, h⟩
      · injection h with h
        exact .inr (.inl ⟨it, rest, hop, hp, h ▸ unreadable_cases ..⟩)
  · rw [step_progress hop] at h
    unfold progress at h
    split at h
    · exact .inr (.inr (.inr ((hans hop h).imp_right .inr)))
    · exact .inr (.inr (.inr ((hans hop h).imp_right .inr)))
    all_goals exact .inr (.inr ((hramp h).imp_right (Or.imp_right .inl)))

end Sys2Proof.Machine
end

