-- ==== Sys2Proof/Machine/Assembler.lean ====
section
/-! DEFINITION. The spec's assembler text (R77), with the operation form `op n` of 95_test_vectors.md program P5: a line of text
becomes the item it writes. -/

namespace Sys2Proof.Machine

/-- A token of a line: a word (a mnemonic, a name or a literal), or a punctuation character. -/
inductive Token where
  | word (cs : List Char)
  | punct (c : Char)
  deriving DecidableEq, Repr

/-- The opening brace of a job descriptor (R77). -/
def braceOpen : Char := Char.ofNat 123

/-- The closing brace of a job descriptor (R77). -/
def braceClose : Char := Char.ofNat 125

/-- The punctuation of R77; the parentheses are those of the PLL entry in the example of R128. -/
def isPunct (c : Char) : Bool := [',', '[', ']', '(', ')', braceOpen, braceClose].contains c

/-- A word, where there is one. -/
def wordToken (w : List Char) : List Token := if w = [] then [] else [.word w]

/-- The tokens of a line up to its comment (R77); `w` is the word read so far. -/
def tokensFrom : List Char → List Char → List Token
  | w, [] => wordToken w
  | w, c :: cs =>
    if c = ';' then wordToken w
    else if c = ' ' ∨ c = '\t' then wordToken w ++ tokensFrom [] cs
    else if isPunct c then wordToken w ++ .punct c :: tokensFrom [] cs
    else tokensFrom (w ++ [c]) cs

/-- The value of a hexadecimal digit. -/
def hexDigit (c : Char) : Option Nat :=
  if '0' ≤ c ∧ c ≤ '9' then some (c.toNat - 48)
  else if 'A' ≤ c ∧ c ≤ 'F' then some (c.toNat - 55)
  else if 'a' ≤ c ∧ c ≤ 'f' then some (c.toNat - 87)
  else none

/-- The value of digits in a base, `n` being the digits before them. -/
def digitsFrom (base : Nat) : Nat → List Char → Option Nat
  | n, [] => some n
  | n, c :: cs =>
    match hexDigit c with
    | none => none
    | some d => if d < base then digitsFrom base (base * n + d) cs else none

/-- At least one digit in a base. -/
def digits (base : Nat) (cs : List Char) : Option Nat :=
  if cs = [] then none else digitsFrom base 0 cs

/-- An integer, decimal or `0x`-prefixed hexadecimal (R77). -/
def natLiteral (cs : List Char) : Option Nat :=
  match cs with
  | '0' :: 'x' :: hex => digits 16 hex
  | _ => digits 10 cs

/-- A decimal literal as an exact rational (R77). -/
def freqLiteral (cs : List Char) : Option Freq :=
  match cs.span (· != '.') with
  | (whole, []) => (digits 10 whole).map fun n => (n : Freq)
  | (whole, _ :: frac) =>
    match digits 10 whole, digits 10 frac with
    | some n, some d => some ((n : Freq) + mkRat d (10 ^ frac.length))
    | _, _ => none

/-- What reading an operand gives: the operand and the tokens after it. -/
abbrev Parsed (α : Type) := Option (α × List Token)

/-- Read one operand, then go on with the tokens after it. -/
def andThen {α β : Type} (r : Parsed α) (k : α → List Token → Parsed β) : Parsed β :=
  match r with
  | none => none
  | some (x, rest) => k x rest

/-- One expected punctuation character. -/
def expect (c : Char) (ts : List Token) : Parsed Unit :=
  match ts with
  | .punct c' :: rest => if c' = c then some ((), rest) else none
  | _ => none

/-- A word read by `f`. -/
def readWord {α : Type} (f : List Char → Option α) (ts : List Token) : Parsed α :=
  match ts with
  | .word w :: rest => (f w).map fun x => (x, rest)
  | _ => none

/-- A minus sign before a number or frequency. -/
def signed {α : Type} (neg : α → α) (f : List Char → Option α) (cs : List Char) : Option α :=
  match cs with
  | '-' :: more => (f more).map neg
  | _ => f cs

/-- A natural number. -/
def parseNat (ts : List Token) : Parsed Nat := readWord natLiteral ts

/-- A number below 2^w. -/
def parseBits (w : Nat) (ts : List Token) : Parsed (BitVec w) :=
  andThen (parseNat ts) fun n rest => if n < 2 ^ w then some (BitVec.ofNat w n, rest) else none

/-- An integer. -/
def parseInt (ts : List Token) : Parsed Int :=
  readWord (signed (fun x => -x) fun cs => (natLiteral cs).map fun n => (n : Int)) ts

/-- A frequency. -/
def parseFreq (ts : List Token) : Parsed Freq := readWord (signed (fun x => -x) freqLiteral) ts

/-- A group, `single` or `all` (R77). -/
def parseGroup (ts : List Token) : Parsed Group :=
  readWord (fun w => if w = "single".toList then some .single else if w = "all".toList then some .all else none) ts

/-- A command code, by the name R7 gives it or as a number. -/
def cmdLiteral (wire : Wire) (w : List Char) : Option Nat :=
  if w = "CMD_SETADDR".toList then some wire.cmdSetaddr.toNat
  else if w = "CMD_WRITE".toList then some wire.cmdWrite.toNat
  else if w = "CMD_READ".toList then some wire.cmdRead.toNat
  else if w = "CMD_INACTIVE".toList then some wire.cmdInactive.toNat
  else natLiteral w

/-- A byte of a byte sequence: two hexadecimal digits (R77). -/
def byteLiteral (w : List Char) : Option Byte :=
  if w.length = 2 then (digits 16 w).map (BitVec.ofNat 8) else none

/-- The bytes of a sequence up to its closing bracket. -/
def parseByteList : List Token → Parsed Bytes
  | [] => none
  | .punct c :: rest => if c = ']' then some ([], rest) else none
  | .word w :: rest =>
    match byteLiteral w, parseByteList rest with
    | some b, some (bs, rest') => some (b :: bs, rest')
    | _, _ => none

/-- A byte sequence, `[55 AA 01]` (R77). -/
def parseBytes (ts : List Token) : Parsed Bytes :=
  andThen (expect '[' ts) fun _ ts => parseByteList ts

/-- Further byte sequences, each after a comma, up to the closing bracket; `fuel` bounds their number. -/
def parseMore : Nat → List Token → Parsed (List Bytes)
  | 0, _ => none
  | fuel + 1, ts =>
    match ts with
    | .punct ',' :: rest =>
      andThen (parseBytes rest) fun b rest => andThen (parseMore fuel rest) fun bs rest => some (b :: bs, rest)
    | .punct ']' :: rest => some ([], rest)
    | _ => none

/-- A list of byte sequences in brackets. -/
def parseList (ts : List Token) : Parsed (List Bytes) :=
  match ts with
  | .punct '[' :: .punct ']' :: rest => some ([], rest)
  | .punct '[' :: rest =>
    andThen (parseBytes rest) fun b more => andThen (parseMore more.length more) fun bs rest => some (b :: bs, rest)
  | _ => none

/-- The next operand, after its comma. -/
def commaThen {α : Type} (p : List Token → Parsed α) (ts : List Token) : Parsed α :=
  andThen (expect ',' ts) fun _ ts => p ts

/-- A job descriptor, written in braces: k, nonce, nbits, ntime, merkle, [ms0, ...] (R77). -/
def parseJob (ts : List Token) : Parsed JobDesc :=
  andThen (expect braceOpen ts) fun _ ts => andThen (parseNat ts) fun k ts => andThen (commaThen parseBytes ts) fun a ts =>
    andThen (commaThen parseBytes ts) fun b ts => andThen (commaThen parseBytes ts) fun c ts =>
      andThen (commaThen parseBytes ts) fun m ts => andThen (commaThen parseList ts) fun ms ts =>
        andThen (expect braceClose ts) fun _ ts => some (⟨k, a, b, c, m, ms⟩, ts)

/-- A PLL entry, `(75.0, 144, 2, 6, 4)`, as the example of R128 writes it. -/
def parseEntry (ts : List Token) : Parsed PllEntry :=
  andThen (expect '(' ts) fun _ ts => andThen (parseFreq ts) fun f ts => andThen (commaThen (parseBits 8) ts) fun fb ts =>
    andThen (commaThen (parseBits 8) ts) fun rd ts => andThen (commaThen (parseBits 8) ts) fun p1 ts =>
      andThen (commaThen (parseBits 8) ts) fun p2 ts => andThen (expect ')' ts) fun _ ts => some (⟨f, fb, rd, p1, p2⟩, ts)

/-- One operand and an instruction made of it. -/
def oneOperand {α : Type} (p : List Token → Parsed α) (f : α → Instr) (ts : List Token) : Parsed Instr :=
  andThen (p ts) fun x ts => some (f x, ts)

/-- The operands of a mnemonic (R73, R77). -/
def parseOperands (wire : Wire) (m : List Char) (ts : List Token) : Parsed Instr :=
  if m = "CRC5".toList then oneOperand parseBytes .crc5 ts
  else if m = "CRC16F".toList then oneOperand parseBytes .crc16f ts
  else if m = "REV8".toList then oneOperand (parseBits 8) .rev8 ts
  else if m = "POW2FLOOR".toList then oneOperand (parseBits 32) .pow2floor ts
  else if m = "MASKVAL".toList then oneOperand (parseBits 32) .maskval ts
  else if m = "MASKDECODE".toList then
    andThen (parseBytes ts) fun m ts =>
      match m with
      | [m0, m1, m2, m3] => some (.maskdecode m0 m1 m2 m3, ts)
      | _ => none
  else if m = "CMDFRAME".toList then
    andThen (parseGroup ts) fun g ts => andThen (commaThen (readWord (cmdLiteral wire)) ts) fun c ts =>
      andThen (commaThen parseBytes ts) fun p ts => some (.cmdframe g c p, ts)
  else if m = "WRREG".toList then
    andThen (parseGroup ts) fun g ts => andThen (commaThen (parseBits 8) ts) fun chip ts =>
      andThen (commaThen (parseBits 8) ts) fun reg ts => andThen (commaThen parseBytes ts) fun d ts => some (.wrreg g chip reg d, ts)
  else if m = "RDREG".toList then
    andThen (parseGroup ts) fun g ts => andThen (commaThen (parseBits 8) ts) fun chip ts =>
      andThen (commaThen (parseBits 8) ts) fun reg ts => some (.rdreg g chip reg, ts)
  else if m = "PROBE".toList then some (.probe, ts)
  else if m = "SETADDR".toList then oneOperand (parseBits 8) .setaddr ts
  else if m = "ADDRASSIGN".toList then oneOperand parseNat .addrassign ts
  else if m = "INACTIVE".toList then some (.inactive, ts)
  else if m = "DIFFMASK".toList then oneOperand (parseBits 32) .diffmask ts
  else if m = "FREQFRAME".toList then oneOperand parseEntry .freqframe ts
  else if m = "JOBFRAME".toList then
    andThen (parseGroup ts) fun g ts => andThen (commaThen parseJob ts) fun j ts => some (.jobframe g j, ts)
  else if m = "INIT".toList then
    andThen (parseFreq ts) fun f ts => andThen (commaThen parseNat ts) fun n ts => andThen (commaThen (parseBits 32) ts) fun d ts =>
      some (.init f n d, ts)
  else if m = "RECV_RESULT".toList then some (.recvResult, ts)
  else if m = "CHECK_CHIPID".toList then
    andThen (parseInt ts) fun rc ts => andThen (commaThen parseBytes ts) fun b ts => some (.checkChipid rc b, ts)
  else if m = "ENUM_COUNT".toList then some (.enumCount, ts)
  else if m = "PLL_LOOKUP".toList then oneOperand parseFreq .pllLookup ts
  else if m = "SETFREQ".toList then oneOperand parseFreq .setfreq ts
  else if m = "RAMP_REQ".toList then oneOperand parseFreq .rampReq ts
  else if m = "RAMP_STEP".toList then some (.rampStep, ts)
  else if m = "RAMP_SETTLED".toList then some (.rampSettled, ts)
  else if m = "RAMP".toList then oneOperand parseFreq .ramp ts
  else if m = "RESET".toList then some (.reset, ts)
  else none

/-- What a line writes: nothing (blank, or a comment), one item, or no operation. -/
inductive AsmLine where
  | blank
  | item (it : Item)
  | malformed
  deriving DecidableEq, Repr

/-- One line of assembler text (R77), under a configuration.  `op n` writes operation number n without operands (95_test_vectors.md, P5). -/
def assembleLine (c : Cfg) (line : List Char) : AsmLine :=
  match tokensFrom [] line with
  | [] => .blank
  | .punct _ :: _ => .malformed
  | .word m :: ts =>
    if m = "op".toList then
      match parseBits 8 ts with
      | some (n, []) => .item (.host [n])
      | _ => .malformed
    else
      match parseOperands c.wire m ts with
      | some (i, []) => if i.wf then .item (encodeUnder c i) else .malformed
      | _ => .malformed

end Sys2Proof.Machine
end

