-- ==== Sys2Proof/Tests/Slice0.lean ====
section
/-! SUPPORT. Tests.  Expected values are the spec's own (95_test_vectors.md and the examples of 40 to 44), or worked out
by hand from the rule named. -/

set_option Elab.async false

namespace Sys2Proof.Tests

open Machine

/-! ## Helpers -/

/-- The next state of an instruction, where there is one. -/
def after (i : Instr) (s : State) : Option State :=
  match exec i s with
  | .next t => some t
  | .fault _ => none
  | .refused _ => none

/-- The next state of a step, where there is one. -/
def afterStep (s : State) : Option State :=
  match step s with
  | .next t => some t
  | .fault _ => none
  | .refused _ => none

/-- The status an instruction returns. -/
def statusOf (i : Instr) (s : State) : Option Status := (after i s).bind fun t => t.ret

/-- TX_LOG after an instruction. -/
def logOf (i : Instr) (s : State) : Option (List TxEvent) := (after i s).map fun t => t.txLog

/-- FAULTS after an instruction. -/
def faultsOf (i : Instr) (s : State) : Option (List StickyFault) := (after i s).map fun t => t.faults

/-- A state with these transport answers coming. -/
def withRx (rx : List Answer) : State := { State.reset with rx := rx }

/-- A state in a ramp from `cur` to `tgt`. -/
def inRamp (rs : RampState) (cur tgt : Freq) (dir : RampDir) : State :=
  { State.reset with rampState := rs, rampCur := cur, rampTgt := tgt, rampDir := dir }

/-- A state at rest at `f`. -/
def atRest (f : Freq) : State := inRamp .idle f f .none

/-- `00 01 .. 1F`, the midstate of V-JOB-1. -/
def ms0 : Bytes := (List.range 32).map fun k => BitVec.ofNat 8 k

/-- A Merkle root whose last four bytes are AA BB CC DD (V-JOB-1). -/
def merkle : Bytes := List.replicate 28 0 ++ [0xAA, 0xBB, 0xCC, 0xDD]

/-- The job of V-JOB-1. -/
def job1 : JobDesc := ⟨1, [0, 0, 0, 0], [0x17, 0x03, 0x4B, 0x6A], [0x65, 0x5E, 0x3C, 0x12], merkle, [ms0]⟩

/-- The job of V-JOB-2. -/
def job4 : JobDesc :=
  { job1 with k := 4, midstates := [ms0, List.replicate 32 0x11, List.replicate 32 0x22, List.replicate 32 0x33] }

/-- The wire fields of V-JOB-1's frame. -/
def fields1 : JobFields :=
  ⟨4, 1, [0, 0, 0, 0], [0x17, 0x03, 0x4B, 0x6A], [0x65, 0x5E, 0x3C, 0x12], [0xAA, 0xBB, 0xCC, 0xDD], ms0,
    zeroMidstate, zeroMidstate, zeroMidstate⟩

/-- The first six bytes of a frame sent, and its length. -/
def frameStart : TxEvent → Bytes × Nat
  | .send f => (f.take 6, f.length)
  | .clearBuffer => ([], 0)
  | .receive _ _ _ _ => ([], 0)
  | .settle => ([], 0)

/-- GOOD of 95_test_vectors.md. -/
def good : Bytes := [0xAA, 0x55, 0x13, 0x97, 0x18, 0x00, 0x00, 0x00, 0x06]

/-- BADCRC of 95_test_vectors.md. -/
def badCrc : Bytes := [0xAA, 0x55, 0x13, 0x97, 0x18, 0x00, 0x00, 0x00, 0x07]

/-- OTHER of 95_test_vectors.md. -/
def other : Bytes := [0xAA, 0x55, 0x13, 0x66, 0x00, 0x00, 0x00, 0x00, 0x0C]

/-! ## Well-formedness: each check refuses -/

theorem test_wf_job1 : Instr.wf (.jobframe .single job1) = true := by decide +kernel
theorem test_wf_job_nonce : Instr.wf (.jobframe .single { job1 with startingNonce := [0, 0, 0] }) = false := by decide +kernel
theorem test_wf_job_nbits : Instr.wf (.jobframe .single { job1 with nbits := [] }) = false := by decide +kernel
theorem test_wf_job_ntime : Instr.wf (.jobframe .single { job1 with ntime := [1, 2, 3, 4, 5] }) = false := by decide +kernel
theorem test_wf_job_merkle : Instr.wf (.jobframe .single { job1 with merkleRoot := [1, 2, 3, 4] }) = false := by decide +kernel
theorem test_wf_job_midstate : Instr.wf (.jobframe .single { job1 with midstates := [[0]] }) = false := by decide +kernel
theorem test_wf_frameJob : Instr.wf (.frameJob .all fields1) = true := by decide +kernel
theorem test_wf_frameJob_nonce : Instr.wf (.frameJob .all { fields1 with startingNonce := [0] }) = false := by decide +kernel
theorem test_wf_frameJob_nbits : Instr.wf (.frameJob .all { fields1 with nbits := [0] }) = false := by decide +kernel
theorem test_wf_frameJob_ntime : Instr.wf (.frameJob .all { fields1 with ntime := [0] }) = false := by decide +kernel
theorem test_wf_frameJob_merkle4 : Instr.wf (.frameJob .all { fields1 with merkle4 := merkle }) = false := by decide +kernel
theorem test_wf_frameJob_midstate0 : Instr.wf (.frameJob .all { fields1 with midstate0 := [] }) = false := by decide +kernel
theorem test_wf_frameJob_midstate1 : Instr.wf (.frameJob .all { fields1 with midstate1 := [] }) = false := by decide +kernel
theorem test_wf_frameJob_midstate2 : Instr.wf (.frameJob .all { fields1 with midstate2 := [] }) = false := by decide +kernel
theorem test_wf_frameJob_midstate3 : Instr.wf (.frameJob .all { fields1 with midstate3 := [] }) = false := by decide +kernel
theorem test_wf_frameJob_unused : Instr.wf (.frameJob .all { fields1 with midstate2 := ms0 }) = false := by decide +kernel
theorem test_wf_respChipid_short : Instr.wf (.respChipid [0x13, 0x97]) = false := by decide +kernel

/-! ## Decoding: words written out from the spec's encodings -/

/-- The header byte is written bit by bit (R64): 0, type 10, group 0, code 0000 (V-CMD SETADDR 0x04). -/
theorem test_decode_frameSetaddr :
    decode (.frame [0x55, 0xAA, 0b01000000, 0x05, 0x04, 0x00, 0x03]) = .ok (.frameSetaddr 0x04) := by decide +kernel
/-- Type 10, group 1, code 0001 (V-CMD). -/
theorem test_decode_frameWrite :
    decode (.frame [0x55, 0xAA, 0b01010001, 0x09, 0x00, 0xA4, 0x90, 0x00, 0xFF, 0xFF, 0x1C]) =
      .ok (.frameWrite .all 0x00 0xA4 0x90 0x00 0xFF 0xFF) := by decide +kernel
/-- Type 10, group 0, code 0010 (V-CMD). -/
theorem test_decode_frameRead :
    decode (.frame [0x55, 0xAA, 0b01000010, 0x05, 0x08, 0x00, 0x15]) = .ok (.frameRead .single 0x08 0x00) := by decide +kernel
/-- Type 10, group 0, code 0011 (V-CMD). -/
theorem test_decode_frameInactive :
    decode (.frame [0x55, 0xAA, 0b01000011, 0x05, 0x00, 0x00, 0x07]) = .ok (.frameInactive .single) := by decide +kernel
set_option maxRecDepth 40000 in
/-- Type 01, group 0, code 0001, the 152 bytes of V-JOB-1. -/
theorem test_decode_frameJob :
    decode (.frame ([0x55, 0xAA, 0b00100001, 0x96, 0x04, 0x01, 0x00, 0x00, 0x00, 0x00, 0x17, 0x03, 0x4B, 0x6A, 0x65, 0x5E,
      0x3C, 0x12, 0xAA, 0xBB, 0xCC, 0xDD] ++ ms0 ++ List.replicate 96 0 ++ [0x6D, 0x78])) =
      .ok (.frameJob .single fields1) := by decide +kernel
/-- A result frame (R67, V-PARSE). -/
theorem test_decode_respResult :
    decode (.result [0xAA, 0x55, 0x78, 0x56, 0x34, 0x12, 0x00, 0x05, 0x1F]) =
      .ok (.respResult 0x78 0x56 0x34 0x12 0x00 0x05 0x1F) := by decide +kernel
/-- A chip-ID response (R68). -/
theorem test_decode_respChipid :
    decode (.chipid good) = .ok (.respChipid [0x13, 0x97, 0x18, 0x00, 0x00, 0x00, 0x06]) := by decide +kernel
theorem test_decode_crc5 : decode (.host [0x01, 0x02, 0xAB, 0xCD]) = .ok (.crc5 [0xAB, 0xCD]) := by decide +kernel
theorem test_decode_crc16f : decode (.host [0x02, 0x00]) = .ok (.crc16f []) := by decide +kernel
theorem test_decode_rev8 : decode (.host [0x03, 0x12]) = .ok (.rev8 0x12) := by decide +kernel
theorem test_decode_pow2floor : decode (.host [0x04, 0xE8, 0x03, 0x00, 0x00]) = .ok (.pow2floor 1000) := by decide +kernel
theorem test_decode_maskval : decode (.host [0x05, 0x00, 0x00, 0x00, 0x80]) = .ok (.maskval 0x80000000) := by decide +kernel
theorem test_decode_maskdecode :
    decode (.host [0x06, 0x00, 0x00, 0x80, 0xFF]) = .ok (.maskdecode 0x00 0x00 0x80 0xFF) := by decide +kernel
theorem test_decode_cmdframe :
    decode (.host [0x10, 0x10, 0x03, 0x02, 0x00, 0x00]) = .ok (.cmdframe .all 0x3 [0x00, 0x00]) := by decide +kernel
theorem test_decode_wrreg :
    decode (.host [0x11, 0x00, 0x04, 0x3C, 0x04, 0x80, 0x00, 0x85, 0x40]) =
      .ok (.wrreg .single 0x04 0x3C [0x80, 0x00, 0x85, 0x40]) := by decide +kernel
theorem test_decode_rdreg : decode (.host [0x12, 0x00, 0x08, 0x00]) = .ok (.rdreg .single 0x08 0x00) := by decide +kernel
theorem test_decode_probe : decode (.host [0x13]) = .ok .probe := by decide +kernel
theorem test_decode_setaddr : decode (.host [0x14, 0xFC]) = .ok (.setaddr 0xFC) := by decide +kernel
theorem test_decode_addrassign : decode (.host [0x15, 0x80, 0x02]) = .ok (.addrassign 256) := by decide +kernel
theorem test_decode_inactive : decode (.host [0x16]) = .ok .inactive := by decide +kernel
theorem test_decode_diffmask : decode (.host [0x17, 0x00, 0x01, 0x00, 0x00]) = .ok (.diffmask 256) := by decide +kernel
/-- 225/4: sign 0, numerator 225 as E1 01, denominator 4 as 03. -/
theorem test_decode_freqframe :
    decode (.host [0x18, 0x00, 0xE1, 0x01, 0x03, 0x6C, 0x02, 0x06, 0x04]) = .ok (.freqframe ⟨225 / 4, 108, 2, 6, 4⟩) := by
  decide +kernel
theorem test_decode_jobframe : decode (encode (.jobframe .all job1)) = .ok (.jobframe .all job1) := by decide +kernel
theorem test_decode_init :
    decode (.host [0x1A, 0x00, 0x4B, 0x00, 0x03, 0xE8, 0x03, 0x00, 0x00]) = .ok (.init 75 3 1000) := by decide +kernel
theorem test_decode_recvResult : decode (.host [0x20]) = .ok .recvResult := by decide +kernel
theorem test_decode_checkChipid :
    decode (.host [0x21, 0x01, 0x01, 0x01, 0xAA]) = .ok (.checkChipid (-1) [0xAA]) := by decide +kernel
theorem test_decode_enumCount : decode (.host [0x22]) = .ok .enumCount := by decide +kernel
theorem test_decode_pllLookup : decode (.host [0x30, 0x01, 0x01, 0x00]) = .ok (.pllLookup (-1)) := by decide +kernel
theorem test_decode_setfreq : decode (.host [0x31, 0x00, 0x3C, 0x00]) = .ok (.setfreq 60) := by decide +kernel
theorem test_decode_rampReq : decode (.host [0x40, 0x00, 0x4B, 0x00]) = .ok (.rampReq 75) := by decide +kernel
theorem test_decode_rampStep : decode (.host [0x41]) = .ok .rampStep := by decide +kernel
theorem test_decode_rampSettled : decode (.host [0x42]) = .ok .rampSettled := by decide +kernel
theorem test_decode_ramp : decode (.host [0x43, 0x00, 0x7D, 0x01]) = .ok (.ramp (125 / 2)) := by decide +kernel
theorem test_decode_reset : decode (.host [0x7F]) = .ok .reset := by decide +kernel
/-- No such operation (R76, V-REFUSE). -/
theorem test_decode_unknown : decode (.host [0x55]) = .error (.unknownOp 0x55) := by decide +kernel
/-- Header 0x50 is reserved (R70); its CRC5 is not looked at. -/
theorem test_decode_reserved :
    decode (.frame [0x55, 0xAA, 0x50, 0x05, 0x04, 0x00, 0x00]) = .error (.reservedHeader 0x50) := by decide +kernel
theorem test_decode_badCrc :
    decode (.frame [0x55, 0xAA, 0x40, 0x05, 0x04, 0x00, 0x04]) = .error .badChecksum := by decide +kernel
/-- A word of the opcode table for a host operation and for a frame. -/
theorem test_table_reset : decodeTableWord 8 0x7F = some .reset := by decide +kernel
theorem test_table_frame : decodeTableWord 8 0x53 = some (.frameInactive .all) := by decide +kernel
theorem test_table_response : decodeTableWord 16 0xAA55 = some (.respResult 0 0 0 0 0 0 0) := by decide +kernel
/-- With JOB_HEADER_CMD = 0 the block composes 0x20, and 0x21 is reserved (R64, R69, R70). -/
theorem test_headerCmd_zero :
    parseFrame Config.wire 0 (jobframe Config.wire 0 .single [1]) = .ok (.job .single [1]) ∧
      decodeUnder { Config.cfg with jobHeaderCmd := 0 } (.frame [0x55, 0xAA, 0x21, 0x05, 0x01, 0x00, 0x00]) = .error (.reservedHeader 0x21) := by decide +kernel
theorem test_fetch_reset :
    (afterStep ({ State.reset with jobidCtr := 8 }.withFetchWord 8 0x7F)).map (fun t => (t.jobidCtr, t.port)) =
      some (0, []) := by decide +kernel

/-! ## Checksum and bits (V-CRC5, V-CRC16, V-BITS, V-SRC-1) -/

theorem test_crc5_probe : statusOf (.crc5 [0x52, 0x05, 0x00, 0x00]) State.reset = some (.ok (.u8 0x0A)) := by decide +kernel
theorem test_crc5_digits :
    statusOf (.crc5 [0x31, 0x32, 0x33, 0x34, 0x35, 0x36, 0x37, 0x38, 0x39]) State.reset = some (.ok (.u8 0x0F)) := by
  decide +kernel
theorem test_crc16f_check :
    statusOf (.crc16f [0x31, 0x32, 0x33, 0x34, 0x35, 0x36, 0x37, 0x38, 0x39]) State.reset = some (.ok (.u16 0x29B1)) := by
  decide +kernel
theorem test_crc16f_two : statusOf (.crc16f [0x21, 0x96]) State.reset = some (.ok (.u16 0xCBA7)) := by decide +kernel
theorem test_rev8 : statusOf (.rev8 0x12) State.reset = some (.ok (.u8 0x48)) := by decide +kernel
theorem test_pow2floor_zero : statusOf (.pow2floor 0) State.reset = some (.ok (.u32 1)) := by decide +kernel
theorem test_pow2floor_top : statusOf (.pow2floor 0xFFFFFFFF) State.reset = some (.ok (.u32 0x80000000)) := by decide +kernel
theorem test_maskval_down : statusOf (.maskval 257) State.reset = some (.ok (.u32 0xFF)) := by decide +kernel
theorem test_maskval_up :
    statusOf (.maskval 0x80000001) { State.reset with cfg := { Config.cfg with maskRounding := .up } } =
      some (.ok (.u32 0xFFFFFFFF)) := by decide +kernel
theorem test_maskdecode : statusOf (.maskdecode 0x00 0x00 0x80 0xFF) State.reset = some (.ok (.u32 0x1FF)) := by decide +kernel

/-! ## Frames (V-CMD, V-ADDR, V-MASK, V-FREQ, V-JOB) -/

theorem test_cmdframe_empty : logOf (.cmdframe .single 0x2 []) State.reset = some [.send [0x55, 0xAA, 0x42, 0x03, 0x15]] := by
  decide +kernel
theorem test_cmdframe_rawMask :
    faultsOf (.cmdframe .single 0x1 [0x00, 0x14, 0x00]) State.reset = some [.hazardMask [0x00]] := by decide +kernel
/-- 16 is no u4 and none of the four codes (R75): the byte form takes it, and the operand check faults. -/
theorem test_cmdframe_code16 :
    (afterStep { State.reset with port := [.host [0x10, 0x00, 0x10, 0x00]] }).map (fun t => (t.faults, t.txLog)) =
      some ([.operand (.nat 16)], []) := by decide +kernel
theorem test_wrreg :
    logOf (.wrreg .single 0x04 0x3C [0x80, 0x00, 0x85, 0x40]) State.reset =
      some [.send [0x55, 0xAA, 0x41, 0x09, 0x04, 0x3C, 0x80, 0x00, 0x85, 0x40, 0x1F]] := by decide +kernel
theorem test_wrreg_pll :
    faultsOf (.wrreg .all 0x00 0x08 [0x40, 0x90, 0x02, 0x53]) State.reset =
      some [.hazardFreqData [0x40, 0x90, 0x02, 0x53]] := by decide +kernel
theorem test_rdreg : logOf (.rdreg .single 0x08 0x00) State.reset = some [.send [0x55, 0xAA, 0x42, 0x05, 0x08, 0x00, 0x15]] := by
  decide +kernel
theorem test_probe : logOf .probe State.reset = some [.send [0x55, 0xAA, 0x52, 0x05, 0x00, 0x00, 0x0A]] := by decide +kernel
theorem test_setaddr : logOf (.setaddr 0xAB) State.reset = some [.send [0x55, 0xAA, 0x40, 0x05, 0xAB, 0x00, 0x09]] := by
  decide +kernel
theorem test_addrassign :
    logOf (.addrassign 3) State.reset = some [.send [0x55, 0xAA, 0x40, 0x05, 0x00, 0x00, 0x1C],
      .send [0x55, 0xAA, 0x40, 0x05, 0x55, 0x00, 0x0A], .send [0x55, 0xAA, 0x40, 0x05, 0xAA, 0x00, 0x15]] := by decide +kernel
theorem test_addrassign_257 : faultsOf (.addrassign 257) State.reset = some [.operand (.nat 257)] := by decide +kernel
theorem test_inactive : logOf .inactive State.reset = some [.send [0x55, 0xAA, 0x53, 0x05, 0x00, 0x00, 0x03]] := by decide +kernel
theorem test_diffmask :
    logOf (.diffmask 1000) State.reset =
      some [.send [0x55, 0xAA, 0x51, 0x09, 0x00, 0x14, 0x00, 0x00, 0x80, 0xFF, 0x04]] := by decide +kernel
theorem test_diffmask_top :
    logOf (.diffmask 0xFFFFFFFF) State.reset =
      some [.send [0x55, 0xAA, 0x51, 0x09, 0x00, 0x14, 0xFE, 0xFF, 0xFF, 0xFF, 0x10]] := by decide +kernel
/-- Postdivider 0 packs as F, 17 as 0; the check byte is CRC5 of the ten bytes. -/
theorem test_freqframe_packing :
    (logOf (.freqframe ⟨60, 10, 1, 0, 17⟩) State.reset).map (fun l => l.map fun e =>
      match e with | .send f => (f.drop 6).take 4 | _ => []) = some [[0x40, 0x0A, 0x01, 0xF0]] := by decide +kernel
theorem test_freqframe_jump :
    faultsOf (.freqframe ⟨75, 144, 2, 6, 4⟩) State.reset = some [.hazardFreq 75] := by decide +kernel
theorem test_jobframe1 :
    (logOf (.jobframe .single job1) State.reset).map (fun l => l.map frameStart) =
      some [([0x55, 0xAA, 0x21, 0x96, 0x04, 0x01], 152)] := by decide +kernel
theorem test_jobframe4 :
    (logOf (.jobframe .all job4) { State.reset with jobidCtr := 4 }).map (fun l => l.map frameStart) =
      some [([0x55, 0xAA, 0x31, 0x96, 0x08, 0x04], 152)] := by decide +kernel
set_option maxRecDepth 40000 in
/-- The frame of V-JOB-1 ends 6D 78. -/
theorem test_jobframe_crc : crc16 Config.wire (0x21 :: 0x96 :: jobpayload 4 job1) = 0x6D78 := by decide +kernel
theorem test_init_probe :
    (after (.init 75 3 1000) State.reset).map (fun t => (t.op, t.txLog)) =
      some (.initEnum 75 3 1000 0, [.send [0x55, 0xAA, 0x52, 0x05, 0x00, 0x00, 0x0A]]) := by decide +kernel
theorem test_init_busy :
    statusOf (.init 60 1 256) (inRamp .stepping (225 / 4) 75 .up) = some .errBusy := by decide +kernel
/-- The frames after the last answer of program P1, up to the ramp. -/
theorem test_init_tail :
    (afterStep { withRx [.bytes []] with op := .initEnum 75 3 1000 2 }).map (fun t => (t.op, t.txLog.drop 1)) =
      some (.initRamp 2 (.ok .none), [.send [0x55, 0xAA, 0x53, 0x05, 0x00, 0x00, 0x03],
        .send [0x55, 0xAA, 0x40, 0x05, 0x00, 0x00, 0x1C], .send [0x55, 0xAA, 0x40, 0x05, 0x55, 0x00, 0x0A],
        .send [0x55, 0xAA, 0x40, 0x05, 0xAA, 0x00, 0x15],
        .send [0x55, 0xAA, 0x51, 0x09, 0x00, 0x14, 0x00, 0x00, 0x80, 0xFF, 0x04]]) := by decide +kernel

/-! ## Wire rows (log 3) -/

theorem test_frameSetaddr : logOf (.frameSetaddr 0x80) State.reset = some [.send [0x55, 0xAA, 0x40, 0x05, 0x80, 0x00, 0x10]] := by
  decide +kernel
theorem test_frameWrite_mask :
    faultsOf (.frameWrite .all 0x00 0x14 0x00 0x00 0x00 0x01) State.reset = some [.hazardMask [0x00, 0x00, 0x00, 0x01]] := by
  decide +kernel
theorem test_frameRead : logOf (.frameRead .single 0x08 0x00) State.reset = some [.send [0x55, 0xAA, 0x42, 0x05, 0x08, 0x00, 0x15]] := by
  decide +kernel
theorem test_frameInactive : logOf (.frameInactive .single) State.reset = some [.send [0x55, 0xAA, 0x43, 0x05, 0x00, 0x00, 0x07]] := by
  decide +kernel
theorem test_frameJob :
    (logOf (.frameJob .single fields1) State.reset).map (fun l => l.map frameStart) =
      some [([0x55, 0xAA, 0x21, 0x96, 0x04, 0x01], 152)] := by decide +kernel
theorem test_respResult :
    statusOf (.respResult 0xEF 0xBE 0xAD 0xDE 0x01 0x83 0x02) State.reset = some (.noneProtocol 0x80) := by decide +kernel
theorem test_respChipid :
    statusOf (.respChipid [0x13, 0x97, 0x18, 0x00, 0x00, 0x00, 0x06]) State.reset = some (.ok .none) := by decide +kernel

/-! ## Parser (V-PARSE, V-CHIPID, V-SRC-7) -/

theorem test_recvResult_good :
    statusOf .recvResult (withRx [.bytes [0xAA, 0x55, 0x78, 0x56, 0x34, 0x12, 0x00, 0x05, 0x1F]]) =
      some (.result 0x04 1 [0x78, 0x56, 0x34, 0x12] 0x12345678) := by decide +kernel
theorem test_recvResult_short :
    logOf .recvResult (withRx [.bytes [0xAA, 0x55, 0x78, 0x56, 0x34]]) =
      some [.receive 9 10000 5 [0xAA, 0x55, 0x78, 0x56, 0x34], .clearBuffer] := by decide +kernel
theorem test_checkChipid_other : statusOf (.checkChipid 9 other) State.reset = some (.noneChipid 0x13 0x66) := by decide +kernel
theorem test_checkChipid_length : statusOf (.checkChipid 8 good) State.reset = some (.noneLength 8) := by decide +kernel
theorem test_enumCount_issue : (after .enumCount State.reset).map (fun t => (t.op, t.txLog)) = some (.enumCount 0, []) := by
  decide +kernel
theorem test_enumCount_skips :
    (afterStep { withRx [.bytes badCrc, .bytes good] with op := .enumCount 1 }).map (fun t => (t.op, t.txLog)) =
      some (.enumCount 1, [.receive 9 1000 9 badCrc]) := by decide +kernel
theorem test_enumCount_ends :
    (afterStep { withRx [.bytes []] with op := .enumCount 3 }).bind (fun t => t.ret) = some (.ok (.count 3)) := by decide +kernel
/-- With no choice of order left the settle timer fires during an enumeration (R250, log 8). -/
theorem test_enumCount_settles :
    (afterStep { inRamp .settling (125 / 2) 75 .up with op := .enumCount 1, rx := [.bytes good] }).map
      (fun t => (t.rampState, t.op, t.txLog)) = some (.stepping, .enumCount 1, [.settle]) := by decide +kernel

/-! ## PLL (V-FREQ) -/

theorem test_pllLookup_between :
    statusOf (.pllLookup 99) State.reset = some (.ok (.entry 144 2 6 4 75)) := by decide +kernel
theorem test_pllLookup_below : statusOf (.pllLookup 49) State.reset = some .errPllRange := by decide +kernel
theorem test_setfreq_60 :
    (after (.setfreq 60) State.reset).map (fun t => (t.ret, t.txLog)) = some (some (.ok (.freq (225 / 4))),
      [.send [0x55, 0xAA, 0x51, 0x09, 0x00, 0x08, 0x40, 0x6C, 0x02, 0x53, 0x08]]) := by decide +kernel
theorem test_setfreq_jump : faultsOf (.setfreq (6251 / 100)) State.reset = some [.hazardFreq (6251 / 100)] := by decide +kernel

/-! ## Ramp (V-RAMP, P3) -/

theorem test_rampReq :
    (after (.rampReq 75) State.reset).map (fun t => (t.rampState, t.rampTgt, t.rampDir, t.txLog)) =
      some (.stepping, 75, .up, []) := by decide +kernel
theorem test_rampReq_busy : statusOf (.rampReq 60) (inRamp .settling (125 / 2) 75 .up) = some .errBusy := by decide +kernel
theorem test_rampStep :
    (after .rampStep (inRamp .stepping (225 / 4) 75 .up)).map (fun t => (t.rampState, t.rampCur, t.txLog)) =
      some (.settling, 125 / 2, [.send [0x55, 0xAA, 0x51, 0x09, 0x00, 0x08, 0x40, 0x78, 0x02, 0x53, 0x1E]]) := by
  decide +kernel
/-- 490 to 480: the first move rounds down to 487.5. -/
theorem test_rampStep_rounds :
    (after .rampStep (inRamp .stepping 490 480 .down)).map (fun t => t.rampCur) = some (975 / 2) := by decide +kernel
theorem test_rampSettled_last :
    (after .rampSettled (inRamp .settling 75 75 .up)).map (fun t => (t.rampState, t.rampDir, t.txLog)) =
      some (.idle, .none, [.settle]) := by decide +kernel
theorem test_rampSettled_more :
    (after .rampSettled (inRamp .settling (125 / 2) 75 .up)).map (fun t => t.rampState) = some .stepping := by decide +kernel
theorem test_ramp_starts :
    (after (.ramp 75) State.reset).map (fun t => (t.op, t.rampState)) = some (.ramp (.ok .none), .stepping) := by decide +kernel
/-- 50 to 45 under abort: the lookup fails and RAMP returns ERR_RAMP_ABORTED at 50. -/
theorem test_ramp_aborts :
    (afterStep { inRamp .stepping 50 45 .down with
      op := .ramp (.ok .none), cfg := { Config.cfg with rampOnFail := .abort } }).map
      (fun t => (t.ret, t.rampCur, t.rampTgt, t.rampState)) = some (some .errRampAborted, 50, 50, .idle) := by decide +kernel

/-! ## Reset, refusal, launch (V-RESET, V-REFUSE) -/

theorem test_reset_keepsFaults :
    (after .reset { inRamp .stepping (125 / 2) 75 .up with jobidCtr := 8, faults := [.hazardFreq 80] }).map
      (fun t => (t.jobidCtr, t.rampState, t.rampCur, t.faults)) = some (0, .idle, 225 / 4, [.hazardFreq 80]) := by decide +kernel
theorem test_refused :
    (afterStep { State.reset with port := [.host [0x55]] }).map (fun t => (t.refused, t.port, t.txLog)) =
      some (true, [], []) := by decide +kernel
/-- A group byte that is no group: F_OPERAND in WRREG, with that byte, and the block runs on (R75, R222). -/
theorem test_unreadable_group :
    (afterStep { State.reset with port := [.host [0x11, 0x07, 0x00, 0x00], .host [0x13]] }).map
      (fun t => (t.faults, t.refused, t.port)) = some ([.operand (.bytes [0x07])], false, [.host [0x13]]) := by decide +kernel
/-- RDREG is none of the operations that fault on an operand, and the parser never faults (R222). -/
theorem test_unreadable_noFault :
    (afterStep { State.reset with port := [.host [0x12, 0x07, 0x00, 0x00]] }).map (fun t => (t.faults, t.refused)) =
      some ([], true) ∧
    (afterStep { State.reset with port := [.host [0x20, 0x00]] }).map (fun t => (t.faults, t.refused)) = some ([], true) := by
  decide +kernel
/-- SETFREQ checks for the register before its operand (R223, D49). -/
theorem test_unreadable_setfreq :
    (afterStep { State.launch { Config.cfg with family := { Config.family with hasFreqReg := false } } with
      port := [.host [0x31, 0x02]] }).map (fun t => (t.faults, t.refused, t.ret)) =
      some ([], false, some .errUnsupported) := by decide +kernel
/-- A frame with the reserved header 0x50 is rejected (R70). -/
theorem test_unreadable_frame :
    (afterStep { State.reset with port := [.frame [0x55, 0xAA, 0x50, 0x05, 0x04, 0x00, 0x00]] }).map
      (fun t => (t.refused, t.faults, t.txLog)) = some (true, [], []) := by decide +kernel
theorem test_launch_ok : State.reset.refused = false := by decide +kernel
theorem test_launch_refused :
    (State.launch { Config.cfg with pllTable := [⟨50, 96, 2, 6, 4⟩, ⟨50, 96, 2, 6, 4⟩] }).refused = true := by decide +kernel

/-! ## The wire-format parameters are read from the configuration (R7) -/

/-- Wire-format parameters other than those of R7. -/
def otherWire : Wire := { Config.wire with txPreamble := (0x11, 0x22), cmdRead := 0x7, crc5Init := 0x00, respPreamble := (0x33, 0x44) }

/-- A state whose configuration has them. -/
def otherState : State := State.launch { Config.cfg with wire := otherWire }

/-- The header of a read is then 0x47; the check byte of nothing is the initial value. -/
theorem test_wire_sent :
    (logOf (.rdreg .single 0x00 0x00) otherState).map (fun l => l.map frameStart) =
      some [([0x11, 0x22, 0x47, 0x05, 0x00, 0x00], 7)] ∧
    statusOf (.crc5 []) otherState = some (.ok (.u8 0x00)) := by decide +kernel
/-- The preamble of a response, and the code that CMDFRAME takes. -/
theorem test_wire_received :
    statusOf .recvResult { otherState with rx := [.bytes [0xAA, 0x55, 0x78, 0x56, 0x34, 0x12, 0x00, 0x05, 0x1F]] } =
      some (.nonePreamble 0xAA 0x55) ∧
    faultsOf (.cmdframe .single 2 []) otherState = some [.operand (.nat 2)] := by decide +kernel

/-! ## Assembler text (R77; the lines of 95_test_vectors.md programs P1, P4 and P5 and of the examples of 41_frames.md) -/

theorem test_asm_init :
    assembleLine Config.cfg "INIT 75.0, 3, 1000        ; op 0x1A".toList = .item (encode (.init 75 3 1000)) := by decide +kernel
theorem test_asm_wrreg :
    assembleLine Config.cfg "WRREG all, 0x00, 0x14, [00 00 80 FF]  ; op 0x11, a legal mask 0x1FF".toList =
      .item (encode (.wrreg .all 0x00 0x14 [0x00, 0x00, 0x80, 0xFF])) := by decide +kernel
theorem test_asm_freq : assembleLine Config.cfg "SETFREQ 56.25       ; op 0x31".toList = .item (encode (.setfreq (225 / 4))) := by
  decide +kernel
theorem test_asm_op : assembleLine Config.cfg "op 0x55             ; no such operation".toList = .item (.host [0x55]) := by decide +kernel
theorem test_asm_cmdframe :
    assembleLine Config.cfg "CMDFRAME all, CMD_INACTIVE, [00 00]".toList = .item (encode (.cmdframe .all 0x3 [0x00, 0x00])) := by
  decide +kernel
theorem test_asm_entry :
    assembleLine Config.cfg "FREQFRAME (75.0, 144, 2, 6, 4)".toList = .item (encode (.freqframe ⟨75, 144, 2, 6, 4⟩)) := by
  decide +kernel
theorem test_asm_job :
    parseJob (.punct braceOpen :: tokensFrom []
      "4, [00 00 00 00], [17 03 4B 6A], [65 5E 3C 12], [AA BB], [[11], [22]]".toList ++ [.punct braceClose]) =
      some (⟨4, [0, 0, 0, 0], [0x17, 0x03, 0x4B, 0x6A], [0x65, 0x5E, 0x3C, 0x12], [0xAA, 0xBB], [[0x11], [0x22]]⟩, []) := by
  decide +kernel
theorem test_asm_blank : assembleLine Config.cfg "                          ; sequencer: RAMP_STEP (0x41)".toList = .blank := by
  decide +kernel
theorem test_asm_malformed : assembleLine Config.cfg "REV8 256".toList = .malformed := by decide +kernel

/-! ## Witnesses: for each statement with hypotheses, concrete states and operands that meet them, clause by clause -/

/-- A state with one item issued. -/
def issuing (it : Item) : State := { State.reset with port := [it] }

/-- A configuration without the frequency register. -/
def noFreqReg : Cfg := { Config.cfg with family := { Config.family with hasFreqReg := false } }

/-- A configuration that aborts a ramp on a failed write. -/
def aborting : Cfg := { Config.cfg with rampOnFail := .abort }

theorem witness_StepRunsDecodedInstruction :
    (issuing (.host [0x13])).op = .idle ∧ (issuing (.host [0x13])).port = .host [0x13] :: [] ∧
      decode (.host [0x13]) = .ok .probe := by decide +kernel
theorem witness_PlacedWordRunsNext :
    State.reset.cfg.wire = Config.wire ∧ decodeTableWord 8 0x53 = some (.frameInactive .all) := by decide +kernel
theorem witness_UnknownOperationOnlySetsRefused :
    (0x55 : Byte) ∉ opNumbers ∧ (issuing (.host [0x55])).op = .idle ∧
      (issuing (.host [0x55])).port = .host (0x55 :: []) :: [] := by decide +kernel
/-- Clause by clause: a group byte just above GROUP_ALL, a sign byte of 2 with and without the register, a parser operation
with a byte too many, operands that end too soon, and a frame, a response and an empty item that spell nothing. -/
theorem witness_UnreadableItemsFaultOrAreRefused :
    (issuing (.host [0x19, 0x11])).op = .idle ∧
    ((0x11 : Byte) ≠ State.reset.cfg.wire.groupSingle ∧ (0x11 : Byte) ≠ State.reset.cfg.wire.groupAll) ∧
    (1 < (2 : Byte).toNat ∧ State.reset.cfg.family.hasFreqReg = true ∧ noFreqReg.family.hasFreqReg = false) ∧
    decodeUnder Config.cfg (.host [0x22, 0x00]) = .error .trailing ∧
    decodeUnder Config.cfg (.host [0x15]) = .error .truncated ∧
    decodeUnder Config.cfg (.host [0x15, 0x01, 0x00]) = .error .trailing ∧
    decodeUnder Config.cfg (.host []) = .error .truncated ∧
    decodeUnder Config.cfg (.frame [0x55, 0xAA, 0x50, 0x05, 0x00, 0x00, 0x00]) = .error (.reservedHeader 0x50) ∧
    decodeUnder Config.cfg (.result []) = .error .badLength ∧ (issuing (.result [])).cfg = Config.cfg := by decide +kernel
theorem witness_ReservedHeadersSpellNothing :
    decodeUnder Config.cfg (.frame [0x55, 0xAA, 0x40, 0x05, 0x04, 0x00, 0x03]) = .ok (.frameSetaddr 0x04) ∧
      Config.cfg.wire = Config.wire := by decide +kernel
theorem witness_HostWaitsForTheOperationInProgress :
    { withRx [.bytes good] with op := .enumCount 0 }.op ≠ .idle ∧
      (afterStep { withRx [.bytes good] with op := .enumCount 0, port := [.host [0x13]] }).isSome = true := by decide +kernel
theorem witness_DecodeInvertsEncode : Config.cfg.wire = Config.wire ∧ Instr.wf (.jobframe .all job4) = true ∧ Instr.wf (.frameJob .all fields1) = true := by
  decide +kernel
theorem witness_DecodedInstructionsAreWellFormed : decode (encode (.jobframe .all job1)) = .ok (.jobframe .all job1) := by
  decide +kernel
/-- The wire values of R7 are the reset state's: all that these three statements assume. -/
theorem witness_ComposedHeadersAreTheNine : State.reset.cfg.wire = Config.wire := rfl
theorem witness_FixedFramesAreSent : State.reset.cfg.wire = Config.wire := rfl
theorem witness_WireRowsRunTheirRules : State.reset.cfg.wire = Config.wire := rfl
/-- The longest payloads, with the largest command code and with set address. -/
theorem witness_ComposedFramesReadBack :
    ((3 : BitVec 4).toNat ≤ 3 ∧ ¬((3 : BitVec 4) = 0 ∧ Group.all = .all) ∧ (List.replicate 252 (0 : Byte)).length ≤ 252) ∧
    ((0 : BitVec 4).toNat ≤ 3 ∧ ¬((0 : BitVec 4) = 0 ∧ Group.single = .all) ∧ ([] : Bytes).length ≤ 252) ∧
    (List.replicate 251 (0 : Byte)).length ≤ 251 := by decide +kernel
theorem witness_Crc5RunsItsRegister : Config.wire.crc5Poly = 0x05 := by decide
theorem witness_Pow2FloorIsTheGreatestPower : (0 : Word32) = 0 ∧ (0xFFFFFFFF : Word32) ≠ 0 := by decide +kernel
theorem witness_MaskvalRoundsToAPowerLessOne :
    State.reset.cfg.maskRounding = .down ∧
      (State.launch { Config.cfg with maskRounding := .up }).cfg.maskRounding = .up := by decide +kernel
theorem witness_WrregChecksThenSends :
    ([1, 2, 3] : Bytes).length ≠ 4 ∧ ([1, 2, 3, 4, 5] : Bytes).length ≠ 4 ∧ State.reset.cfg.wire = Config.wire := by decide +kernel
/-- The clauses in their order, each at a bound. -/
theorem witness_CmdframeChecksThenSends :
    State.reset.cfg.wire = Config.wire ∧ 3 < 4 ∧ 3 < 16 ∧
    (3 ≤ 3 ∧ ¬(3 = 0 ∧ Group.all = .all) ∧ 252 < (List.replicate 253 (0 : Byte)).length) ∧
    (2 ≤ 3 ∧ (List.replicate 252 (0 : Byte)).length ≤ 252 ∧ 2 ≠ 1) ∧
    (1 ≤ 3 ∧ ([0] : Bytes).length < 2) ∧
    List.replicate 252 (0 : Byte) = 0 :: 0 :: List.replicate 250 0 := by decide +kernel
theorem witness_AddrassignSpreadsTheAddresses :
    (1 ≤ 1 ∧ 1 ≤ 256) ∧ (1 ≤ 256 ∧ 256 ≤ 256) ∧ State.reset.cfg.wire = Config.wire ∧ 256 < 257 := by decide +kernel
theorem witness_DiffmaskWritesTheReversedMask :
    State.reset.cfg.wire = Config.wire ∧ (0x1FF : Word32) = maskval State.reset.cfg.maskRounding 1000 := by
  decide +kernel
theorem witness_FreqframeChecksThenWrites :
    State.reset.cfg.wire = Config.wire ∧ (0 : Freq) ≤ (⟨0, 1, 1, 1, 1⟩ : PllEntry).freq ∧ State.reset.rampState = .idle ∧
      (inRamp .settling (125 / 2) 75 .up).rampState ≠ .idle ∧ noFreqReg.family.hasFreqReg = false := by decide +kernel
theorem witness_FreqframeRefusesNegativeFrequency : (⟨-1 / 4, 1, 1, 1, 1⟩ : PllEntry).freq < 0 := by decide +kernel
theorem witness_DefaultPllDataBytes : Config.family.freqCtrl = ⟨[]⟩ ∧ Config.family.pdPack = ⟨[]⟩ := by decide +kernel
theorem witness_JobframeAllocatesAndSends :
    0 < State.reset.cfg.jobidMod ∧ (job1.k = 1 ∧ job1.midstates.length = job1.k) ∧
    (job4.k = 4 ∧ job4.midstates.length = job4.k) ∧
    ¬(({ job1 with k := 2 }.k = 1 ∨ { job1 with k := 2 }.k = 4) ∧ { job1 with k := 2 }.midstates.length = 2) ∧
    ¬((({ job4 with k := 1 } : JobDesc).k = 1 ∨ ({ job4 with k := 1 } : JobDesc).k = 4) ∧
      ({ job4 with k := 1 } : JobDesc).midstates.length = 1) := by decide +kernel
theorem witness_JobFrameLayout :
    (job1.wf = true ∧ job1.k = 1 ∧ job1.midstates.length = job1.k) ∧
    (job4.wf = true ∧ job4.k = 4 ∧ job4.midstates.length = job4.k) := by decide +kernel
theorem witness_JobIdsKeepTheirLowBitsClear :
    cfgWf Config.cfg = true ∧ (124 : Byte).toNat % Config.cfg.jobidStep.toNat = 0 := by decide +kernel
theorem witness_JobIdsCycleThroughThirtyTwo :
    State.reset.cfg.jobidStep = 4 ∧ State.reset.cfg.jobidMod = 128 ∧ State.reset.jobidCtr = 0 ∧
    ∀ x ∈ [(Group.single, job1), (Group.all, job4)], (x.2.k = 1 ∨ x.2.k = 4) ∧ x.2.midstates.length = x.2.k := by
  decide +kernel
theorem witness_FrameJobSendsItsFields :
    fields1.wf = true ∧ 0 < State.reset.cfg.jobidMod ∧ fields1.numMidstates = 1 ∧
    fields1.jobId = BitVec.ofNat 8 ((State.reset.jobidCtr.toNat + State.reset.cfg.jobidStep.toNat) % State.reset.cfg.jobidMod) ∧
    ({ fields1 with numMidstates := 4 } : JobFields).wf = true ∧
    (({ fields1 with numMidstates := 2 } : JobFields).wf = true ∧ (2 : Byte) ≠ 1 ∧ (2 : Byte) ≠ 4) := by decide +kernel
theorem witness_InitChecksBeforeItsProbe :
    ((-1 / 4 : Freq) < 0) ∧ ((0 : Freq) ≤ 0 ∧ 256 < 257) ∧ (1 ≤ 256 ∧ 256 ≤ 256) ∧
      (inRamp .stepping (225 / 4) 75 .up).rampState ≠ .idle := by decide +kernel
/-- Two good answers and a bad one, then a timeout; none good, then an error; INIT's target at RAMP_CUR and away from it. -/
theorem witness_InitRunsItsSequence :
    ((withRx [.bytes good, .bytes badCrc, .bytes good, .bytes []]).cfg.wire = Config.wire ∧ (0 : Freq) ≤ 75 ∧ 1 ≤ 256 ∧ 256 ≤ 256 ∧ (withRx [.bytes good, .bytes badCrc, .bytes good, .bytes []]).rampState = .idle ∧
      (withRx [.bytes good, .bytes badCrc, .bytes good, .bytes []]).rx =
        [.bytes good, .bytes badCrc, .bytes good] ++ .bytes [] :: [] ∧
      (∀ a ∈ [Answer.bytes good, .bytes badCrc, .bytes good], 0 < answerRc 9 a) ∧ answerRc 9 (.bytes []) ≤ 0 ∧
      State.reset.cfg.family.chipidRespLen = 9) ∧
    0 < validCount Config.cfg [.bytes good, .bytes badCrc, .bytes good] ∧
    State.reset.cfg.eps < |State.reset.rampCur - 75| ∧ |State.reset.rampCur - 225 / 4| ≤ State.reset.cfg.eps ∧
    (validCount Config.cfg [.bytes badCrc] = 0 ∧ answerRc 9 .error ≤ 0) := by decide +kernel
/-- ENUM_COUNT and INIT in their enumerations: an answer listed, a free one, the settle timer's turn not taken, and its turn
by a choice and for want of one. -/
theorem witness_EnumerationTakesOneAnswerAStep :
    ({ withRx [.bytes good] with op := .enumCount 1 }.rx = .bytes good :: [] ∧
      { withRx [.bytes good] with op := .enumCount 1 }.rampState ≠ .settling ∧ 0 < answerRc 9 (.bytes good)) ∧
    ({ State.reset with op := .initEnum 75 256 1000 0 }.rx = [] ∧ { State.reset with op := .initEnum 75 256 1000 0 }.draws = 0) ∧
    ({ inRamp .settling 75 75 .up with timerFirst := [false, true], rx := [.error], op := .enumCount 1 }.rampState = .settling ∧
      { inRamp .settling 75 75 .up with timerFirst := [false, true], rx := [.error], op := .enumCount 1 }.timerFirst =
        false :: [true] ∧ answerRc 9 .error ≤ 0) ∧
    ({ withRx [.bytes []] with op := .initEnum 75 256 1000 0 }.rx = .bytes [] :: [] ∧ answerRc 9 (.bytes []) ≤ 0) ∧
    ({ inRamp .settling 75 75 .up with timerFirst := [true], op := .enumCount 1 }.timerFirst = true :: [] ∧
      (inRamp .settling (125 / 2) 75 .up).timerFirst = []) := by
  decide +kernel
theorem witness_EnumCountCountsValidResponses :
    (withRx [.bytes good, .bytes other, .error]).rampState ≠ .settling ∧
    (withRx [.bytes good, .bytes other, .error]).rx = [.bytes good, .bytes other] ++ .error :: [] ∧
    (∀ a ∈ [Answer.bytes good, .bytes other], 0 < answerRc 9 a) ∧ answerRc 9 .error ≤ 0 ∧
    State.reset.cfg.family.chipidRespLen = 9 ∧ validCount Config.cfg [.bytes good, .bytes other] = 1 := by decide +kernel
/-- One byte short, and exactly RESULT_LEN with more behind it. -/
theorem witness_RecvResultChecksInOrder :
    (withRx [.error]).rx = .error :: [] ∧ 8 ≤ State.reset.cfg.resultLen ∧ State.reset.rx = [] ∧
    ((good.take 8) ≠ [] ∧ (good.take 8).length < State.reset.cfg.resultLen) ∧
    (good.length = State.reset.cfg.resultLen ∧ good.take 8 = [0xAA, 0x55, 0x13, 0x97, 0x18, 0x00, 0x00, 0x00]) := by
  decide +kernel
theorem witness_CheckChipidChecksInOrder :
    5 ≤ State.reset.cfg.family.chipidRespLen ∧ (8 : Int) ≠ State.reset.cfg.family.chipidRespLen ∧
    ((9 : Int) = State.reset.cfg.family.chipidRespLen ∧ good = 0xAA :: 0x55 :: 0x13 :: 0x97 :: [0x18, 0x00, 0x00, 0x00, 0x06] ∧
      State.reset.cfg.family.chipidRespLen ≤ good.length) := by decide +kernel
theorem witness_PllLookupReturnsTheGreatestBelow :
    tableWf State.reset.cfg.pllTable = true ∧ (-1 : Freq) < 0 ∧ ((0 : Freq) ≤ 199 / 4 ∧ ∀ e ∈ State.reset.cfg.pllTable, 199 / 4 < e.freq) ∧
    ((0 : Freq) ≤ 50 ∧ ∃ e ∈ State.reset.cfg.pllTable, e.freq ≤ 50) := by decide +kernel
theorem witness_BinarySearchAgreesWithLookup : tableWf Config.tEx = true ∧ tableWf [] = true := by decide +kernel
theorem witness_SetfreqChecksThenWrites :
    noFreqReg.family.hasFreqReg = false ∧ State.reset.cfg.family.hasFreqReg = true ∧ (-1 : Freq) < 0 ∧
    pllLookup State.reset.cfg.pllTable (199 / 4) = none ∧
    pllLookup State.reset.cfg.pllTable 50 = some ⟨50, 96, 2, 6, 4⟩ ∧ State.reset.cfg.wire = Config.wire := by decide +kernel
/-- 487.5 is a step boundary; 490 is none. -/
theorem witness_RampNextStaysWithinOneStep :
    ((0 : Freq) < 25 / 4 ∧ (975 / 2 : Freq) = (78 : Int) * (25 / 4) ∧ (490 : Freq) < 495 ∧ (480 : Freq) < 490) ∧
    ¬∃ k : Int, (490 : Freq) = k * (25 / 4) := by
  refine ⟨by decide +kernel, ?_⟩
  rintro ⟨k, h⟩
  have h2 : ((490 * 4 : Int) : Freq) = ((k * 25 : Int) : Freq) := by push_cast; linarith
  have := Int.cast_injective h2
  omega
theorem inv_stepping : Inv (inRamp .stepping (225 / 4) 75 .up) := by
  exact ⟨⟨by decide +kernel, by decide +kernel⟩, .inl ⟨rfl, by decide +kernel⟩, ⟨by decide +kernel, by decide +kernel⟩, trivial, by decide +kernel⟩
theorem inv_below : Inv { inRamp .stepping 50 45 .down with cfg := aborting, op := .ramp (.ok .none) } := by
  exact ⟨⟨by decide +kernel, by decide +kernel⟩, .inr ⟨rfl, by decide +kernel⟩,
    ⟨by decide +kernel, by decide +kernel⟩, ⟨by decide, rfl⟩, by decide +kernel⟩
theorem inv_belowContinue : Inv { inRamp .stepping 50 45 .down with op := .initRamp 2 (.ok .none) } := by
  exact ⟨⟨by decide +kernel, by decide +kernel⟩, .inr ⟨rfl, by decide +kernel⟩,
    ⟨by decide +kernel, by decide +kernel⟩, ⟨by decide, rfl⟩, by decide +kernel⟩
/-- A write that finds its entry; one below the table that goes on; one that aborts. -/
theorem witness_RampStepWritesTheNextValue :
    (cfgWf Config.cfg = true ∧ Inv (inRamp .stepping (225 / 4) 75 .up) ∧
      (inRamp .stepping (225 / 4) 75 .up).rampNextValue = 125 / 2 ∧
      pllLookup Config.cfg.pllTable (125 / 2) = some ⟨125 / 2, 120, 2, 6, 4⟩) ∧
    (Inv { inRamp .stepping 50 45 .down with op := .initRamp 2 (.ok .none) } ∧
      pllLookup Config.cfg.pllTable (inRamp .stepping 50 45 .down).rampNextValue = none ∧ Config.cfg.rampOnFail = .continue_) ∧
    (cfgWf aborting = true ∧ Inv { inRamp .stepping 50 45 .down with cfg := aborting, op := .ramp (.ok .none) }) := by
  refine ⟨⟨by decide +kernel, inv_stepping, by decide +kernel, by decide +kernel⟩,
    ⟨inv_belowContinue, by decide +kernel, by decide +kernel⟩, by decide +kernel, inv_below⟩
theorem witness_RampSettledEndsOrContinues :
    ((inRamp .settling (125 / 2) 75 .up).rampState = .settling ∧
      (inRamp .settling (125 / 2) 75 .up).rampCur ≠ (inRamp .settling (125 / 2) 75 .up).rampTgt) ∧
    (inRamp .settling 75 75 .up).rampCur = (inRamp .settling 75 75 .up).rampTgt := by decide +kernel
theorem witness_DisabledEventsChangeNothing :
    State.reset.rampState ≠ .stepping ∧ { inRamp .stepping 50 75 .up with op := .enumCount 3 }.op = .enumCount 3 ∧
      State.reset.rampState ≠ .settling := by decide +kernel
theorem inv_reset : Inv State.reset := by
  exact ⟨⟨by decide +kernel, by decide +kernel⟩, ⟨rfl, rfl⟩, ⟨by decide +kernel, by decide +kernel⟩, trivial, by decide +kernel⟩
theorem witness_RampRunsToItsTarget :
    (-1 : Freq) < 0 ∧ (inRamp .stepping (225 / 4) 75 .up).rampState ≠ .idle ∧
    ((0 : Freq) ≤ 75 ∧ State.reset.rampState = .idle ∧ State.reset.cfg.eps < |State.reset.rampCur - 75| ∧ cfgWf State.reset.cfg = true ∧
      Inv State.reset ∧ State.reset.cfg.rampOnFail = .continue_) ∧
    |State.reset.rampCur - 225 / 4| ≤ State.reset.cfg.eps := by
  exact ⟨by decide +kernel, by decide +kernel, ⟨by decide +kernel, rfl, by decide +kernel, by decide +kernel, inv_reset, rfl⟩,
    by decide +kernel⟩
/-- A ramp that nothing waits for, one that INIT waits for below the table, and one that RAMP waits for under abort. -/
theorem witness_EveryRampEnds :
    (cfgWf Config.cfg = true ∧ Inv (inRamp .stepping (225 / 4) 75 .up) ∧
      (inRamp .stepping (225 / 4) 75 .up).rampState ≠ .idle ∧ (inRamp .stepping (225 / 4) 75 .up).op = .idle ∧
      (inRamp .stepping (225 / 4) 75 .up).port = []) ∧
    Inv { inRamp .stepping 50 45 .down with op := .initRamp 2 (.ok .none) } ∧
    (cfgWf aborting = true ∧ Inv { inRamp .stepping 50 45 .down with cfg := aborting, op := .ramp (.ok .none) }) := by
  exact ⟨⟨by decide +kernel, inv_stepping, by decide +kernel, rfl, rfl⟩, inv_belowContinue, by decide +kernel, inv_below⟩
/-- A write, a settle step that leads on, and a run of one step with no idle state in it. -/
theorem witness_RampWritesAreSpacedBySettles :
    (after .rampStep (inRamp .stepping (225 / 4) 75 .up)).map (fun t => t.txLog.length) = some 1 ∧
    (inRamp .settling (125 / 2) 75 .up).rampState = .settling ∧
    (afterStep (inRamp .settling (125 / 2) 75 .up)).map (fun t => t.rampState) = some .stepping ∧
    (afterSteps 1 (inRamp .settling (125 / 2) 75 .up)).map (fun t => t.rampState) = some .stepping := by decide +kernel
theorem witness_LaunchMeetsTheInvariant : cfgWf Config.cfg = true := by decide +kernel
theorem witness_EveryStepKeepsTheInvariant :
    cfgWf Config.cfg = true ∧ Inv (inRamp .stepping (225 / 4) 75 .up) ∧
      (afterStep (inRamp .stepping (225 / 4) 75 .up)).map (fun t => t.rampState) = some .settling := by
  exact ⟨by decide +kernel, inv_stepping, by decide +kernel⟩
/-- The state after PROBE, with a second command issued. -/
def probed : State :=
  { issuing (.host [0x16]) with txLog := [.send [0x55, 0xAA, 0x52, 0x05, 0x00, 0x00, 0x0A]] }
theorem witness_EveryFrameSentPassesItsChecks :
    probed.cfg.wire = Config.wire ∧ cfgWf probed.cfg = true ∧ LogFramesOk probed ∧ (afterStep probed).map (fun t => t.txLog.length) = some 2 := by
  refine ⟨rfl, by decide +kernel, ?_, by decide +kernel⟩
  intro f hf
  simp only [probed, List.mem_singleton, TxEvent.send.injEq] at hf
  subst hf
  decide +kernel
/-- The mask 0x1FF has been written, and one more write of the mask register is issued. -/
def masked : State :=
  { issuing (.host [0x17, 0x00, 0x01, 0x00, 0x00]) with
    txLog := [.send [0x55, 0xAA, 0x51, 0x09, 0x00, 0x14, 0x00, 0x00, 0x80, 0xFF, 0x04]] }
theorem witness_MaskRegisterNeverGetsAGap :
    masked.cfg.wire = Config.wire ∧ masked.cfg.family.ticketMaskReg ≠ masked.cfg.family.pll0Reg ∧ masked.cfg.familyInitFrames ++ masked.cfg.baudFrames = [] ∧
    LogMaskSafe masked ∧ (afterStep masked).map (fun t => t.txLog.length) = some 2 := by
  refine ⟨rfl, by decide +kernel, by decide +kernel, ?_, by decide +kernel⟩
  intro f hf hc g chip data hp
  simp only [masked, List.mem_singleton, TxEvent.send.injEq] at hf
  subst hf
  have : ∀ hc, parseFrame masked.cfg.wire hc [0x55, 0xAA, 0x51, 0x09, 0x00, 0x14, 0x00, 0x00, 0x80, 0xFF, 0x04] =
      .ok (.cmd .all 1 [0x00, 0x14, 0x00, 0x00, 0x80, 0xFF]) := by decide +kernel
  rw [this] at hp
  cases hp
  decide +kernel
theorem witness_ConfigurationIsReadOnly : (afterStep (issuing (.host [0x7F]))).isSome = true := by decide +kernel
theorem witness_FaultsRefusalAndLogOnlyGrow :
    (afterStep { issuing (.host [0x13]) with refused := true, faults := [.hazardFreq 80] }).map (fun t => t.txLog.length) = some 1 := by
  decide +kernel
/-- A status, and a fault that is new and one that was there before. -/
theorem witness_FaultsArePrecise :
    State.reset.op = .idle ∧ (after (.setaddr 4) State.reset).isSome = true ∧
      faultsOf (.addrassign 0) State.reset = some [.operand (.nat 0)] ∧
      faultsOf (.addrassign 0) { State.reset with faults := [.operand (.nat 0)] } = some [.operand (.nat 0)] := by
  decide +kernel
/-- Instructions that write registers, and the steps that do: an issued one, an event, and the end of INIT's enumeration. -/
theorem witness_RegistersHaveTheirWriters :
    (after (.jobframe .all job1) State.reset).map (fun t => t.jobidCtr) = some 4 ∧
    (after .rampStep (inRamp .stepping (225 / 4) 75 .up)).map (fun t => t.rampCur) = some (125 / 2) ∧
    (after (.rampReq 75) State.reset).map (fun t => t.rampState) = some .stepping ∧
    (afterStep (issuing (.host [0x40, 0x00, 0x4B, 0x00]))).map (fun t => t.rampTgt) = some 75 ∧
    (afterStep (inRamp .stepping (225 / 4) 75 .up)).map (fun t => t.rampCur) = some (125 / 2) ∧
    (afterStep { withRx [.bytes []] with op := .initEnum 75 3 1000 2 }).map (fun t => (t.rampTgt, t.op)) =
      some (75, .initRamp 2 (.ok .none)) := by decide +kernel
end Sys2Proof.Tests
end

/-! # What a step accumulates, which registers it writes, and the invariant they meet (10_state.md) -/

namespace Sys2Proof.Machine

/-! ## The next job-id (R22, R131) -/

theorem nextJobId_toNat {c : Cfg} (hc : cfgWf c = true) (ctr : Byte) :
    (nextJobId c ctr).toNat = (ctr.toNat + c.jobidStep.toNat) % c.jobidMod := by
  obtain ⟨-, -, -, -, -, hpos, -, hle, -⟩ := cfgWf_facts hc
  have hlt := Nat.mod_lt (ctr.toNat + c.jobidStep.toNat) hpos
  rw [nextJobId, natMod, if_neg hpos.ne', BitVec.toNat_ofNat, Nat.mod_eq_of_lt (by omega)]

theorem nextJobId_lt {c : Cfg} (hc : cfgWf c = true) (ctr : Byte) : (nextJobId c ctr).toNat < c.jobidMod := by
  obtain ⟨-, -, -, -, -, hpos, -⟩ := cfgWf_facts hc
  rw [nextJobId_toNat hc]
  exact Nat.mod_lt _ hpos

theorem nextJobId_mod_step {c : Cfg} (hc : cfgWf c = true) {ctr : Byte} (h : ctr.toNat % c.jobidStep.toNat = 0) :
    (nextJobId c ctr).toNat % c.jobidStep.toNat = 0 := by
  obtain ⟨-, -, -, -, -, -, hmod, -⟩ := cfgWf_facts hc
  rw [nextJobId_toNat hc, Nat.mod_mod_of_dvd _ (Nat.dvd_of_mod_eq_zero hmod), Nat.add_mod_right, h]

/-- A byte that is a multiple of 4 has its bits 1 to 0 clear. -/
theorem getLsbD_of_four_dvd {b : Byte} (h : 4 ∣ b.toNat) {i : Nat} (hi : i < 2) : b.getLsbD i = false := by
  obtain ⟨k, hk⟩ := h
  have hbit : (2 ^ 2 * k).testBit i = false := by rw [Nat.testBit_two_pow_mul]; simp [hi]
  rw [← BitVec.testBit_toNat, hk]
  exact hbit

/-- Settles O29: the id is a multiple of JOBID_STEP, which is a multiple of 4. -/
theorem jobIdsKeepTheirLowBitsClear : Obligations.JobIdsKeepTheirLowBitsClear := by
  intro c ctr hc hctr
  obtain ⟨-, -, -, -, hstep, -⟩ := cfgWf_facts hc
  have hid := nextJobId_mod_step hc hctr
  have h4 : 4 ∣ (nextJobId c ctr).toNat := (Nat.dvd_of_mod_eq_zero hstep).trans (Nat.dvd_of_mod_eq_zero hid)
  exact ⟨getLsbD_of_four_dvd h4 (by omega), getLsbD_of_four_dvd h4 (by omega), nextJobId_lt hc ctr, hid⟩

/-! ## The launch (R36, R241) -/

/-- The check of R34 compares neighbours, and so all pairs. -/
theorem ascending_iff_pairwise (t : List PllEntry) : ascending t = true ↔ t.Pairwise fun a b => a.freq < b.freq := by
  refine ⟨ascending_pairwise t, fun h => ?_⟩
  induction t with
  | nil => rfl
  | cons a t ih =>
    cases t with
    | nil => rfl
    | cons b rest =>
      have hab : a.freq < b.freq := List.rel_of_pairwise_cons h (by simp)
      simp [ascending, hab, ih h.of_cons]

theorem tableWf_iff (t : List PllEntry) :
    tableWf t = true ↔ (t.map fun e => e.freq).Pairwise (fun x y => x < y) ∧ ∀ e ∈ t, 0 < e.freq := by
  simp [tableWf, ascending_iff_pairwise, List.pairwise_map]

/-- The launch check holds exactly when every condition of R241 does. -/
theorem cfgWf_iff (c : Cfg) : cfgWf c = true ↔
    ((c.pllTable.map fun e => e.freq).Pairwise (fun x y => x < y) ∧ ∀ e ∈ c.pllTable, 0 < e.freq) ∧
    (∀ f ∈ c.familyInitFrames ++ c.baudFrames, frameOk c.wire f = true) ∧
    (0 < c.jobidStep.toNat ∧ 4 ∣ c.jobidStep.toNat) ∧
    (0 < c.jobidMod ∧ c.jobidStep.toNat ∣ c.jobidMod ∧ c.jobidMod ≤ 256) ∧
    (0 < c.rampStep ∧ 0 ≤ c.eps ∧ 0 ≤ c.bootFreq) ∧
    5 ≤ c.family.chipidRespLen ∧ 8 ≤ c.resultLen := by
  simp only [cfgWf, Bool.and_eq_true, tableWf_iff, List.all_eq_true, decide_eq_true_eq, beq_iff_eq, List.forall_mem_append,
    Nat.dvd_iff_mod_eq_zero]
  tauto

/-- Settles O50: the registers are read off the launch, and REFUSED is the launch check. -/
theorem launchState : Obligations.LaunchState := by
  intro c
  refine ⟨rfl, rfl, rfl, rfl, rfl, rfl, rfl, rfl, rfl, ?_⟩
  rw [← cfgWf_iff c]
  exact iff_of_eq (Bool.not_eq_false' (cfgWf c))

/-! ## Items that spell no instruction (R37, R75, R222) -/

/-- An issued item that the decoder refuses is answered by `unreadable`. -/
theorem step_of_decode_error {s : State} {it : Item} {rest : List Item} {e : DecodeError} (hop : s.op = .idle)
    (hp : s.port = it :: rest) (he : decodeUnder s.cfg it = .error e) :
    step s = .next (unreadable it e { s with port := rest }) := by
  rw [step_issue hop hp, issue, he]

theorem decode_error_of_ne_ok {c : Cfg} {it : Item} (h : ∀ i, decodeUnder c it ≠ .ok i) :
    ∃ e, decodeUnder c it = .error e := by
  cases hd : decodeUnder c it with
  | ok i => exact absurd hd (h i)
  | error e => exact ⟨e, rfl⟩

/-- The operations of R73 whose first operand is a group report a byte that is none. -/
theorem decodeHost_badGroup {w : Wire} {op b : Byte} (more : Bytes) (hop : op ∈ ([0x10, 0x11, 0x19] : List Byte))
    (hs : b ≠ w.groupSingle) (ha : b ≠ w.groupAll) : decodeHost w (op :: b :: more) = .error (.badGroup b) := by
  have hg : readGroup w (b :: more) = .error (.badGroup b) := by simp [readGroup, hs, ha]
  simp only [List.mem_cons, List.not_mem_nil, or_false] at hop
  rcases hop with rfl | rfl | rfl <;> simp [decodeHost, readOp, readOperands, hg]

/-- The operations of R222 whose first operand is a frequency report a sign byte that is none. -/
theorem decodeHost_badSign {w : Wire} {op b : Byte} (more : Bytes)
    (hop : op ∈ ([0x1A, 0x30, 0x31, 0x40, 0x43] : List Byte)) (hb : 1 < b.toNat) :
    decodeHost w (op :: b :: more) = .error (.badSign b) := by
  have h0 : b ≠ 0 := by rintro rfl; simp at hb
  have h1 : b ≠ 1 := by rintro rfl; simp at hb
  have hsign : readSign (b :: more) = .error (.badSign b) := by rw [readSign, if_neg h0, if_neg h1]
  have hf : readFreq (b :: more) = .error (.badSign b) := by simp [readFreq, readInt, hsign]
  simp only [List.mem_cons, List.not_mem_nil, or_false] at hop
  rcases hop with rfl | rfl | rfl | rfl | rfl <;> simp [decodeHost, readOp, readOperands, hf]

theorem unreadable_host_of_no_operand (bs : Bytes) {e : DecodeError} (h : badOperand e = none) (s : State) :
    unreadable (.host bs) e s = s.markRefused := by
  cases bs with
  | nil => rfl
  | cons op more => simp [unreadable, unreadableOp, h]

theorem unreadableOp_of_not_mem {op : Byte} (h : op ∉ operandFaultOps) (e : DecodeError) (s : State) :
    unreadableOp op e s = s.markRefused := by
  unfold unreadableOp
  split
  · rfl
  · rw [if_pos h]

/-- In an operation that R222 names, an operand outside its type faults, but for SETFREQ without the register. -/
theorem unreadableOp_of_mem {op : Byte} (h : op ∈ operandFaultOps) {e : DecodeError} {v : OperandVal}
    (hv : badOperand e = some v) (s : State) :
    unreadableOp op e s =
      if op = 0x31 ∧ s.cfg.family.hasFreqReg = false then s.reply .errUnsupported else s.raise (.operand v) := by
  simp [unreadableOp, hv, h]

/-- Only a host item can be answered by more than the refusal mark. -/
theorem unreadable_of_not_host {it : Item} (h : ∀ bs, it ≠ .host bs) (e : DecodeError) (s : State) :
    unreadable it e s = s.markRefused := by
  cases it with
  | host bs => exact absurd rfl (h bs)
  | frame => rfl
  | result => rfl
  | chipid => rfl

/-- Settles O4: by the error the decoder answers, and what `unreadable` makes of it. -/
theorem unreadableItemsFaultOrAreRefused : Obligations.UnreadableItemsFaultOrAreRefused := by
  intro s rest hop
  refine ⟨?_, ?_, ?_, ?_, ?_⟩
  · intro op b more hmem hs ha hp
    have hne : op ≠ 0x31 := by rintro rfl; revert hmem; decide
    have hnamed : ([0x10, 0x11, 0x19] : List Byte) ⊆ operandFaultOps := by decide
    rw [step_of_decode_error hop hp (decodeHost_badGroup more hmem hs ha), unreadable, unreadableOp_of_mem (hnamed hmem) rfl,
      if_neg fun h => hne h.1]
    rfl
  · intro op b more hmem hb hp
    have hnamed : ([0x1A, 0x30, 0x31, 0x40, 0x43] : List Byte) ⊆ operandFaultOps := by decide
    rw [step_of_decode_error hop hp (decodeHost_badSign more hmem hb), unreadable, unreadableOp_of_mem (hnamed hmem) rfl]
    rfl
  · intro op more hmem hp hd
    obtain ⟨e, he⟩ := decode_error_of_ne_ok hd
    rw [step_of_decode_error hop hp he, unreadable, unreadableOp_of_not_mem hmem]
    rfl
  · intro bs hp hd
    obtain he | he := hd <;> rw [step_of_decode_error hop hp he, unreadable_host_of_no_operand bs rfl] <;> rfl
  · intro it hhost hp hd
    obtain ⟨e, he⟩ := decode_error_of_ne_ok hd
    rw [step_of_decode_error hop hp he, unreadable_of_not_host hhost]
    rfl

/-! ## Updates that write no register -/

/-- From `s` to `t` the configuration stands (R26), and FAULTS, REFUSED and TX_LOG lose nothing (R28, R37, R29). -/
structure Accumulates (s t : State) : Prop where
  cfg : t.cfg = s.cfg
  faults : s.faults ⊆ t.faults
  nodup : s.faults.Nodup → t.faults.Nodup
  refused : s.refused = true → t.refused = true
  txLog : s.txLog <+: t.txLog

theorem Accumulates.trans {s t u : State} (h : Accumulates s t) (k : Accumulates t u) : Accumulates s u where
  cfg := k.cfg.trans h.cfg
  faults := List.Subset.trans h.faults k.faults
  nodup := k.nodup ∘ h.nodup
  refused := k.refused ∘ h.refused
  txLog := h.txLog.trans k.txLog

theorem Accumulates.of_eq {s t : State} (hc : t.cfg = s.cfg) (hf : t.faults = s.faults) (hr : t.refused = s.refused)
    (hl : t.txLog = s.txLog) : Accumulates s t where
  cfg := hc
  faults := hf ▸ List.Subset.refl _
  nodup := hf ▸ id
  refused := hr ▸ id
  txLog := hl ▸ List.prefix_rfl

/-- From `s` to `t` moreover no register is written: JOBID_CTR and the four of the ramp stand. -/
structure Quiet (s t : State) : Prop extends Accumulates s t where
  jobidCtr : t.jobidCtr = s.jobidCtr
  rampState : t.rampState = s.rampState
  rampCur : t.rampCur = s.rampCur
  rampTgt : t.rampTgt = s.rampTgt
  rampDir : t.rampDir = s.rampDir

theorem Quiet.trans {s t u : State} (h : Quiet s t) (k : Quiet t u) : Quiet s u where
  toAccumulates := h.toAccumulates.trans k.toAccumulates
  jobidCtr := k.jobidCtr.trans h.jobidCtr
  rampState := k.rampState.trans h.rampState
  rampCur := k.rampCur.trans h.rampCur
  rampTgt := k.rampTgt.trans h.rampTgt
  rampDir := k.rampDir.trans h.rampDir

/-- The fields that say what comes next, and the status, are no registers. -/
theorem quiet_control (s : State) (op : Progress) (ret : Option Status) (port : List Item) (rx : List Answer) (draws : Nat)
    (timerFirst : List Bool) :
    Quiet s { s with op := op, ret := ret, port := port, rx := rx, draws := draws, timerFirst := timerFirst } :=
  ⟨.of_eq rfl rfl rfl rfl, rfl, rfl, rfl, rfl, rfl⟩

theorem Quiet.refl (s : State) : Quiet s s := quiet_control s ..

theorem quiet_reply (s : State) (st : Status) : Quiet s (s.reply st) := quiet_control s ..

theorem quiet_await (s : State) (p : Progress) : Quiet s (s.await p) := quiet_control s ..

theorem quiet_dropAnswer (s : State) : Quiet s s.dropAnswer := by
  unfold State.dropAnswer
  split <;> exact quiet_control s ..

theorem quiet_resume (s : State) : Quiet s s.resume := by
  obtain h | ⟨-, st, h⟩ := resume_cases s <;> rw [h]
  · exact .refl s
  · exact quiet_reply s st

theorem quiet_log (s : State) (e : TxEvent) : Quiet s (s.log e) where
  toAccumulates := ⟨rfl, List.Subset.refl _, id, id, List.prefix_append ..⟩
  jobidCtr := rfl
  rampState := rfl
  rampCur := rfl
  rampTgt := rfl
  rampDir := rfl

theorem quiet_sendAll (s : State) (fs : List Bytes) : Quiet s (s.sendAll fs) := by
  induction fs generalizing s with
  | nil => exact .refl s
  | cons f fs ih => exact (quiet_log s (.send f)).trans (ih _)

theorem quiet_raise (s : State) (f : StickyFault) : Quiet s (s.raise f) where
  toAccumulates := ⟨rfl, subset_insertFault .., nodup_insertFault f, id, List.prefix_rfl⟩
  jobidCtr := rfl
  rampState := rfl
  rampCur := rfl
  rampTgt := rfl
  rampDir := rfl

theorem quiet_markRefused (s : State) : Quiet s s.markRefused where
  toAccumulates := ⟨rfl, List.Subset.refl _, id, fun _ => rfl, List.prefix_rfl⟩
  jobidCtr := rfl
  rampState := rfl
  rampCur := rfl
  rampTgt := rfl
  rampDir := rfl

theorem quiet_answered (s : State) : Quiet s (answered s) :=
  (quiet_dropAnswer s).trans (quiet_log _ _)

/-! ## The registers an instruction writes -/

/-- The state in which an accepted request leaves the ramp (R191). -/
def rampRequested (s : State) (f : Freq) : State :=
  { s with rampTgt := f, rampDir := (if s.rampCur < f then .up else .down), rampState := .stepping }

/-- A request writes the same registers after an update that wrote none. -/
theorem Quiet.rampRequested {s t : State} (h : Quiet s t) (f : Freq) : Quiet (rampRequested s f) (rampRequested t f) where
  toAccumulates := ⟨h.cfg, h.faults, h.nodup, h.refused, h.txLog⟩
  jobidCtr := h.jobidCtr
  rampState := rfl
  rampCur := h.rampCur
  rampTgt := rfl
  rampDir := by simp [Machine.rampRequested, h.rampCur]

/-- Every way an instruction can write the registers: `u` is `s` with the registers written. -/
inductive RegisterWrite (s : State) : Instr → State → Prop where
  /-- It writes none. -/
  | nothing (i) : RegisterWrite s i s
  /-- A job frame takes the next job-id (R22). -/
  | jobId (i) (hi : (∃ g job, i = .jobframe g job) ∨ ∃ g f, i = .frameJob g f) :
      RegisterWrite s i { s with jobidCtr := nextJobId s.cfg s.jobidCtr }
  /-- A ramp request is accepted (R191). -/
  | request (i f) (hi : i = .rampReq f ∨ i = .ramp f) (hf : 0 ≤ f) (he : s.cfg.eps < absDiff s.rampCur f) :
      RegisterWrite s i (rampRequested s f)
  /-- RESET (R240). -/
  | reset : RegisterWrite s .reset (resetRegisters s)
  /-- The sequencer writes its next value (R193). -/
  | write (hs : s.rampState = .stepping) : RegisterWrite s .rampStep (written s)
  /-- The sequencer gives the ramp up (R193). -/
  | abort (hs : s.rampState = .stepping) : RegisterWrite s .rampStep (abortedRamp s)
  /-- The settle timer fires (R194). -/
  | settle (hs : s.rampState = .settling) : RegisterWrite s .rampSettled (settledRamp s)

theorem stepping_of_stepEnabled {s : State} (h : stepEnabled s = true) : s.rampState = .stepping := by
  simp only [stepEnabled, Bool.and_eq_true, beq_iff_eq] at h
  exact h.1

/-- Beside its register write, an instruction only accumulates. -/
theorem effect_writes {s t : State} {i : Instr} (h : Effect s i t) : ∃ u, RegisterWrite s i u ∧ Quiet u t := by
  cases h with
  | replied st => exact ⟨s, .nothing i, quiet_reply s st⟩
  | raised f => exact ⟨s, .nothing i, quiet_raise s f⟩
  | sent v fs => exact ⟨s, .nothing i, (quiet_sendAll s fs).trans (quiet_reply _ _)⟩
  | jobSent g job _ hi =>
    refine ⟨_, .jobId i ?_, (quiet_log _ _).trans (quiet_reply _ _)⟩
    exact hi.imp (fun e => ⟨g, job, e⟩) fun ⟨f, e, _⟩ => ⟨g, f, e⟩
  | received s' a n ms clear st hs =>
    have hs' : Quiet s s' := by
      rcases hs with rfl | rfl
      · exact .refl _
      · exact quiet_dropAnswer _
    have hr := hs'.trans (quiet_log s' (.receive n ms (answerRc n a) (answerBuf n a)))
    refine ⟨s, .nothing i, Quiet.trans ?_ (quiet_reply _ _)⟩
    cases clear with
    | false => exact hr
    | true => exact hr.trans (quiet_log _ _)
  | enumBegun => exact ⟨s, .nothing i, quiet_await _ _⟩
  | initBegun => exact ⟨s, .nothing i, (quiet_log _ _).trans (quiet_await _ _)⟩
  | rampBegun f p hf _ he hi =>
    refine ⟨_, .request i f (hi.imp And.left And.left) hf he, ?_⟩
    cases p with
    | none => exact quiet_reply _ _
    | some q => exact quiet_await _ _
  | wasReset hi =>
    subst hi
    exact ⟨_, .reset, quiet_reply _ _⟩
  | nothing => exact ⟨s, .nothing i, .refl s⟩
  | stepped hi he e =>
    subst hi
    exact ⟨_, .write (stepping_of_stepEnabled he), quiet_log _ (.send (freqFrame s.cfg e))⟩
  | skipped hi he =>
    subst hi
    exact ⟨_, .write (stepping_of_stepEnabled he), .refl _⟩
  | aborted hi he =>
    subst hi
    exact ⟨_, .abort (stepping_of_stepEnabled he), quiet_resume _⟩
  | faultedStep => exact ⟨s, .nothing i, quiet_raise _ _⟩
  | settled hi he =>
    subst hi
    exact ⟨_, .settle he, quiet_resume _⟩

theorem exec_writes {s t : State} {i : Instr} (h : exec i s = .next t) : ∃ u, RegisterWrite s i u ∧ Quiet u t :=
  effect_writes (effect_of_exec h)

theorem settledRamp_txLog (s : State) : (settledRamp s).txLog = s.txLog ++ [.settle] := by
  unfold settledRamp
  split <;> rfl

theorem accumulates_settledRamp (s : State) : Accumulates s (settledRamp s) := by
  refine (quiet_log s .settle).toAccumulates.trans ?_
  unfold settledRamp
  split <;> exact .of_eq rfl rfl rfl rfl

theorem RegisterWrite.accumulates {s u : State} {i : Instr} (h : RegisterWrite s i u) : Accumulates s u := by
  cases h with
  | settle => exact accumulates_settledRamp s
  | nothing | jobId | request | reset | write | abort => exact .of_eq rfl rfl rfl rfl

/-! ## The registers a step writes -/

/-- The frames of INIT after its enumeration (R132). -/
def initFrames (c : Cfg) (n : Nat) (d : Word32) : List Bytes :=
  [inactiveFrame c.wire .all] ++ addrFrames c.wire n ++ c.familyInitFrames ++ [maskFrame c d] ++ c.baudFrames

theorem initTail_eq (s : State) (f : Freq) (n : Nat) (d : Word32) (c : Nat) :
    initTail s f n d c =
      beginRamp (s.sendAll (initFrames s.cfg n d)) f (.initRamp c (.ok .none)) fun _ => .ok (.count c) := rfl

/-- INIT's tail faults, or sends its frames and returns or asks for its ramp (R132). -/
theorem initTail_cases (s : State) (f : Freq) (n : Nat) (d : Word32) (c : Nat) :
    s.conclude (initTail s f n d c) = s.raise (.operand (.freq f)) ∨
    s.conclude (initTail s f n d c) = (s.sendAll (initFrames s.cfg n d)).reply (.ok (.count c)) ∨
    (0 ≤ f ∧ s.cfg.eps < absDiff s.rampCur f ∧
      s.conclude (initTail s f n d c) =
        (rampRequested (s.sendAll (initFrames s.cfg n d)) f).await (.initRamp c (.ok .none))) := by
  have hq := quiet_sendAll s (initFrames s.cfg n d)
  rw [initTail_eq]
  rcases beginRamp_cases (s.sendAll (initFrames s.cfg n d)) f (.initRamp c (.ok .none)) (fun _ => .ok (.count c)) with
    ⟨_, h⟩ | ⟨_, _, h⟩ | ⟨_, _, _, h⟩ | ⟨hf, _, he, h⟩ <;> rw [h]
  · exact .inl rfl
  · exact .inr (.inl rfl)
  · exact .inr (.inl rfl)
  · rw [hq.cfg, hq.rampCur] at he
    exact .inr (.inr ⟨hf, he, rfl⟩)

/-- Every way a step can write the registers: not at all, by the instruction it issues, by the sequencer, by the settle
timer, or by the ramp request at the end of an INIT's enumeration. -/
inductive StepWrite (s t : State) : Prop where
  | quiet (h : Quiet s t)
  | issued (i : Instr) (s' u : State) (hi : Issues s i t) (hs : Quiet s s') (hw : RegisterWrite s' i u) (hu : Quiet u t)
  | sequencer (u : State) (he : exec .rampStep s = .next t) (hw : RegisterWrite s .rampStep u) (hu : Quiet u t)
  | settled (l : List Bool) (hs : s.rampState = .settling) (ht : t = (settledRamp { s with timerFirst := l }).resume)
  | initRequest (f : Freq) (n : Nat) (d : Word32) (c : Nat) (hop : s.op = .initEnum f n d c) (hf : 0 ≤ f)
      (he : s.cfg.eps < absDiff s.rampCur f) (ht : t.op = .initRamp c (.ok .none)) (hu : Quiet (rampRequested s f) t)

/-- The due settle event happens. -/
theorem exec_rampSettled {s : State} (h : s.rampState = .settling) :
    exec .rampSettled s = .next (settledRamp s).resume := by
  have he : settleEnabled s = true := by simp [settleEnabled, h]
  rw [exec, execRampSettled, if_pos he]
  rfl

/-- A round of an enumeration, where the scheduler may have taken a choice before it. -/
theorem enumStep_writes {s s' : State} (hs : Quiet s s') (hop' : s'.op = s.op) : StepWrite s (enumStep s') := by
  have ha := hs.trans (quiet_answered s')
  rcases enumStep_cases s' with ⟨c, _, h⟩ | ⟨c, c', _, h⟩ | ⟨f, n, d, _, h⟩ | ⟨f, n, d, c, hop, _, h⟩ |
    ⟨f, n, d, c, c', _, h⟩ | h <;> rw [h]
  · exact .quiet (ha.trans (quiet_reply _ _))
  · exact .quiet (ha.trans (quiet_await _ _))
  · exact .quiet (ha.trans (quiet_reply _ _))
  · obtain h | h | ⟨hf, he, h⟩ := initTail_cases (answered s') f n d c <;> rw [h]
    · exact .quiet (ha.trans (quiet_raise _ _))
    · exact .quiet ((ha.trans (quiet_sendAll _ _)).trans (quiet_reply _ _))
    · rw [ha.cfg, ha.rampCur] at he
      exact .initRequest f n d c (hop' ▸ hop) hf he rfl
        (((ha.trans (quiet_sendAll _ _)).rampRequested f).trans (quiet_await _ _))
  · exact .quiet (ha.trans (quiet_await _ _))
  · exact .quiet hs

theorem step_writes {s t : State} (h : step s = .next t) : StepWrite s t := by
  rcases step_cases h with ⟨it, rest, i, hop, hp, hd, he⟩ | ⟨it, rest, -, -, ht⟩ | ⟨-, he⟩ | ⟨hs, l, he⟩ | ⟨-, rfl⟩ |
    ⟨-, l, rfl⟩
  · obtain ⟨u, hw, hu⟩ := exec_writes he
    exact .issued i _ u ⟨it, rest, hop, hp, hd, he⟩ (quiet_control s ..) hw hu
  · have hport : Quiet s { s with port := rest } := quiet_control s ..
    obtain rfl | rfl | ⟨f, rfl⟩ := ht
    · exact .quiet (hport.trans (quiet_markRefused _))
    · exact .quiet (hport.trans (quiet_reply _ _))
    · exact .quiet (hport.trans (quiet_raise _ _))
  · obtain ⟨u, hw, hu⟩ := exec_writes he
    exact .sequencer u he hw hu
  · rw [exec_rampSettled (s := { s with timerFirst := l }) hs] at he
    injection he with he
    exact .settled l hs he.symm
  · exact .quiet (quiet_resume s)
  · exact enumStep_writes (quiet_control s ..) rfl

/-! ## What a step accumulates -/

theorem StepWrite.accumulates {s t : State} (h : StepWrite s t) : Accumulates s t := by
  cases h with
  | quiet h => exact h.toAccumulates
  | issued i s' u _ hs hw hu => exact hs.toAccumulates.trans (hw.accumulates.trans hu.toAccumulates)
  | sequencer u _ hw hu => exact hw.accumulates.trans hu.toAccumulates
  | settled l _ ht =>
    have hl : Quiet s { s with timerFirst := l } := quiet_control s ..
    exact ht ▸ hl.toAccumulates.trans ((accumulates_settledRamp _).trans (quiet_resume _).toAccumulates)
  | initRequest f _ _ _ _ _ _ _ hu =>
    have hr : Accumulates s (rampRequested s f) := .of_eq rfl rfl rfl rfl
    exact hr.trans hu.toAccumulates

theorem step_accumulates {s t : State} (h : step s = .next t) : Accumulates s t :=
  (step_writes h).accumulates

/-- Settles O56: every register write and every other update of a step leaves the configuration. -/
theorem configurationIsReadOnly : Obligations.ConfigurationIsReadOnly :=
  fun _ _ h => (step_accumulates h).cfg

/-- Settles O57: every register write and every other update of a step only adds to the three. -/
theorem faultsRefusalAndLogOnlyGrow : Obligations.FaultsRefusalAndLogOnlyGrow := fun _ _ h =>
  have ha := step_accumulates h
  ⟨ha.faults, ha.refused, ha.txLog⟩

/-! ## Who writes each register -/

@[simp] theorem settledRamp_jobidCtr (s : State) : (settledRamp s).jobidCtr = s.jobidCtr := by
  unfold settledRamp
  split <;> rfl

@[simp] theorem settledRamp_rampCur (s : State) : (settledRamp s).rampCur = s.rampCur := by
  unfold settledRamp
  split <;> rfl

/-- Some ramp register other than RAMP_CUR differs. -/
def RampWritten (s t : State) : Prop :=
  t.rampTgt ≠ s.rampTgt ∨ t.rampDir ≠ s.rampDir ∨ t.rampState ≠ s.rampState

/-- A quiet update after a write leaves the ramp registers as the write did. -/
theorem RampWritten.of_quiet {s t u : State} (hu : Quiet u t) (h : RampWritten s t) : RampWritten s u := by
  simpa only [RampWritten, hu.rampTgt, hu.rampDir, hu.rampState] using h

theorem not_rampWritten_self (s : State) : ¬RampWritten s s := by
  simp [RampWritten]

/-- Only job frames and RESET write JOBID_CTR. -/
theorem RegisterWrite.jobidCtr {s u : State} {i : Instr} (h : RegisterWrite s i u) (hne : u.jobidCtr ≠ s.jobidCtr) :
    i = .reset ∨ (∃ g job, i = .jobframe g job) ∨ ∃ g f, i = .frameJob g f := by
  cases h with
  | jobId _ hi => exact .inr hi
  | reset => exact .inl rfl
  | settle => exact absurd (settledRamp_jobidCtr s) hne
  | nothing | request | write | abort => exact absurd rfl hne

/-- Only the sequencer and RESET write RAMP_CUR. -/
theorem RegisterWrite.rampCur {s u : State} {i : Instr} (h : RegisterWrite s i u) (hne : u.rampCur ≠ s.rampCur) :
    i = .rampStep ∨ i = .reset := by
  cases h with
  | write => exact .inl rfl
  | reset => exact .inr rfl
  | settle => exact absurd (settledRamp_rampCur s) hne
  | nothing | jobId | request | abort => exact absurd rfl hne

/-- Only the ramp's own operations and RESET write the other ramp registers. -/
theorem RegisterWrite.ramp {s u : State} {i : Instr} (h : RegisterWrite s i u) (hw : RampWritten s u) :
    i = .rampStep ∨ i = .rampSettled ∨ i = .reset ∨ (∃ f, i = .rampReq f) ∨ ∃ f, i = .ramp f := by
  cases h with
  | write | abort => exact .inl rfl
  | settle => exact .inr (.inl rfl)
  | reset => exact .inr (.inr (.inl rfl))
  | request _ f hi => exact .inr (.inr (.inr (hi.imp (⟨f, ·⟩) (⟨f, ·⟩))))
  | nothing | jobId => exact absurd hw (not_rampWritten_self s)

theorem StepWrite.jobidCtr {s t : State} (h : StepWrite s t) (hne : t.jobidCtr ≠ s.jobidCtr) : ∃ i, Issues s i t := by
  cases h with
  | quiet h => exact absurd h.jobidCtr hne
  | issued i _ _ hi => exact ⟨i, hi⟩
  | sequencer u _ hw hu => simpa using hw.jobidCtr (hu.jobidCtr ▸ hne)
  | settled l _ ht => exact absurd (by rw [ht, (quiet_resume _).jobidCtr, settledRamp_jobidCtr]) hne
  | initRequest _ _ _ _ _ _ _ _ hu => exact absurd hu.jobidCtr hne

theorem StepWrite.rampCur {s t : State} (h : StepWrite s t) (hne : t.rampCur ≠ s.rampCur) :
    (∃ i, Issues s i t) ∨ exec .rampStep s = .next t := by
  cases h with
  | quiet h => exact absurd h.rampCur hne
  | issued i _ _ hi => exact .inl ⟨i, hi⟩
  | sequencer _ he => exact .inr he
  | settled l _ ht => exact absurd (by rw [ht, (quiet_resume _).rampCur, settledRamp_rampCur]) hne
  | initRequest _ _ _ _ _ _ _ _ hu => exact absurd hu.rampCur hne

theorem resume_txLog (s : State) : s.resume.txLog = s.txLog := by
  obtain h | ⟨-, st, h⟩ := resume_cases s <;> rw [h]
  rfl

theorem StepWrite.ramp {s t : State} (h : StepWrite s t) (hw : RampWritten s t) :
    (∃ i, Issues s i t) ∨ exec .rampStep s = .next t ∨
      (s.rampState = .settling ∧ t.txLog = s.txLog ++ [.settle]) ∨
      ∃ f n d c, s.op = .initEnum f n d c ∧ t.op = .initRamp c (.ok .none) ∧ t.rampTgt = f := by
  cases h with
  | quiet h => exact absurd (hw.of_quiet h) (not_rampWritten_self s)
  | issued i _ _ hi => exact .inl ⟨i, hi⟩
  | sequencer _ he => exact .inr (.inl he)
  | settled l hs ht => exact .inr (.inr (.inl ⟨hs, by rw [ht, resume_txLog, settledRamp_txLog]⟩))
  | initRequest f n d c hop _ _ ht hu => exact .inr (.inr (.inr ⟨f, n, d, c, hop, ht, hu.rampTgt⟩))

/-- Settles O60, by what an instruction and what a step can write. -/
theorem registersHaveTheirWriters : Obligations.RegistersHaveTheirWriters := by
  refine ⟨fun i s t h => ?_, fun s t h => ?_⟩
  · obtain ⟨u, hw, hu⟩ := exec_writes h
    exact ⟨fun hne => hw.jobidCtr (hu.jobidCtr ▸ hne), fun hne => hw.rampCur (hu.rampCur ▸ hne),
      fun hr => hw.ramp (.of_quiet hu hr)⟩
  · have hw := step_writes h
    exact ⟨hw.jobidCtr, hw.rampCur, hw.ramp⟩

/-! ## The sequencer's next value (R192) -/

theorem freqMin_eq (x y : Freq) : freqMin x y = min x y := (min_def x y).symm

theorem freqMax_eq (x y : Freq) : freqMax x y = max x y := (max_def x y).symm

/-- Upwards, the next value does not pass the target. -/
theorem rampNext_up_le (s cur tgt unit : Freq) : rampNext s cur tgt true unit ≤ tgt := by
  simp [rampNext, freqMin_eq]

/-- Downwards, the next value does not pass the target. -/
theorem le_rampNext_down (s cur tgt unit : Freq) : tgt ≤ rampNext s cur tgt false unit := by
  simp [rampNext, freqMax_eq]

/-- Upwards, the next value is no negative frequency. -/
theorem rampNext_up_nonneg {s cur tgt : Freq} (hs : 0 < s) (hc : 0 ≤ cur) (ht : 0 ≤ tgt) :
    0 ≤ rampNext s cur tgt true 1 := by
  simp only [rampNext, if_true, freqMin_eq]
  refine le_min ?_ ht
  split
  · linarith
  · have hq : 0 ≤ cur / s := div_nonneg hc hs.le
    rw [freqDiv, if_neg hs.ne', rat_ceil_eq]
    exact mul_nonneg (by exact_mod_cast Int.ceil_nonneg hq) hs.le

/-! ## The registers keep their invariant -/

/-- The part of the invariant that speaks of the registers alone. -/
def RegistersOk (s : State) : Prop :=
  JobIdOk s ∧ RampOk s ∧ FreqsOk s

theorem inv_iff (s : State) : Inv s ↔ RegistersOk s ∧ ProgressOk s ∧ s.faults.Nodup := by
  simp only [Inv, RegistersOk, and_assoc]

theorem RegistersOk.of_quiet {s t : State} (h : RegistersOk s) (hq : Quiet s t) : RegistersOk t := by
  simpa only [RegistersOk, JobIdOk, RampOk, FreqsOk, hq.cfg, hq.jobidCtr, hq.rampState, hq.rampCur, hq.rampTgt, hq.rampDir]
    using h

/-- At rest at `f`, the registers meet their invariant. -/
theorem registersOk_at_rest {s : State} (hj : JobIdOk s) (hs : s.rampState = .idle) (hd : s.rampDir = .none)
    (ht : s.rampCur = s.rampTgt) (hf : 0 ≤ s.rampCur) : RegistersOk s :=
  ⟨hj, by simp [RampOk, hs, hd, ht], hf, ht ▸ hf⟩

theorem jobIdOk_zero {s : State} (hc : cfgWf s.cfg = true) (h : s.jobidCtr = 0) : JobIdOk s := by
  obtain ⟨-, -, -, -, -, hpos, -⟩ := cfgWf_facts hc
  simpa [JobIdOk, h] using hpos

/-- A request for a frequency other than RAMP_CUR starts a ramp in its direction (R191). -/
theorem RegistersOk.rampRequested {s : State} {f : Freq} (h : RegistersOk s) (heps : 0 ≤ s.cfg.eps) (hf : 0 ≤ f)
    (he : s.cfg.eps < absDiff s.rampCur f) : RegistersOk (rampRequested s f) := by
  obtain ⟨hj, -, hcur, -⟩ := h
  refine ⟨hj, ?_, hcur, hf⟩
  have hne : s.rampCur ≠ f := by
    rintro rfl
    rw [absDiff_eq, sub_self, abs_zero] at he
    exact absurd he heps.not_gt
  by_cases hlt : s.rampCur < f
  · exact .inl ⟨if_pos hlt, hlt⟩
  · exact .inr ⟨if_neg hlt, lt_of_le_of_ne (not_lt.mp hlt) hne.symm⟩

/-- A write of the sequencer goes no further than the target, and is no negative frequency (R192, R193). -/
theorem RegistersOk.written {s : State} (h : RegistersOk s) (hpos : 0 < s.cfg.rampStep) (hs : s.rampState = .stepping) :
    RegistersOk (written s) := by
  obtain ⟨hj, hr, hcur, htgt⟩ := h
  simp only [RampOk, hs] at hr
  obtain ⟨hdir, -⟩ | ⟨hdir, -⟩ := hr
  · have hn : s.rampNextValue = rampNext s.cfg.rampStep s.rampCur s.rampTgt true 1 := by
      rw [State.rampNextValue, hdir]; rfl
    refine ⟨hj, .inl ⟨hdir, ?_⟩, ?_, htgt⟩
    · exact hn.trans_le (rampNext_up_le ..)
    · exact (rampNext_up_nonneg hpos hcur htgt).trans_eq hn.symm
  · have hn : s.rampNextValue = rampNext s.cfg.rampStep s.rampCur s.rampTgt false (-1) := by
      rw [State.rampNextValue, hdir]; rfl
    have hle : s.rampTgt ≤ s.rampNextValue := (le_rampNext_down ..).trans_eq hn.symm
    exact ⟨hj, .inr ⟨hdir, hle⟩, htgt.trans hle, htgt⟩

/-- A settle event ends the ramp at its target, and else leaves a write due (R194). -/
theorem RegistersOk.settledRamp {s : State} (h : RegistersOk s) (hs : s.rampState = .settling) :
    RegistersOk (settledRamp s) := by
  obtain ⟨hj, hr, hcur, htgt⟩ := h
  simp only [RampOk, hs] at hr
  unfold Machine.settledRamp
  split
  case isTrue he => exact registersOk_at_rest hj rfl rfl he hcur
  case isFalse hne =>
    refine ⟨hj, ?_, hcur, htgt⟩
    exact hr.imp (And.imp_right (lt_of_le_of_ne · hne)) (And.imp_right (lt_of_le_of_ne · (Ne.symm hne)))

theorem RegistersOk.of_write {s u : State} {i : Instr} (hc : cfgWf s.cfg = true) (h : RegistersOk s)
    (hw : RegisterWrite s i u) : RegistersOk u := by
  obtain ⟨-, -, -, -, -, -, -, -, hstep, heps, hboot, -⟩ := cfgWf_facts hc
  have ⟨⟨hmod, hlt⟩, hr, hf⟩ := h
  cases hw with
  | nothing => exact h
  | jobId => exact ⟨⟨nextJobId_mod_step hc hmod, nextJobId_lt hc _⟩, hr, hf⟩
  | request i f _ h0 he => exact h.rampRequested heps h0 he
  | reset => exact registersOk_at_rest (jobIdOk_zero hc rfl) rfl rfl rfl hboot
  | write hs => exact h.written hstep hs
  | abort => exact registersOk_at_rest ⟨hmod, hlt⟩ rfl rfl rfl hf.1
  | settle hs => exact h.settledRamp hs

theorem step_registersOk {s t : State} (hc : cfgWf s.cfg = true) (h : RegistersOk s) (hst : step s = .next t) :
    RegistersOk t := by
  cases step_writes hst with
  | quiet hq => exact h.of_quiet hq
  | issued i s' u _ hs hw hu => exact (RegistersOk.of_write (hs.cfg ▸ hc) (h.of_quiet hs) hw).of_quiet hu
  | sequencer u _ hw hu => exact (h.of_write hc hw).of_quiet hu
  | settled l hs ht =>
    have hl : RegistersOk { s with timerFirst := l } := h.of_quiet (quiet_control s ..)
    exact ht ▸ (hl.settledRamp hs).of_quiet (quiet_resume _)
  | initRequest f _ _ _ _ h0 he _ hu =>
    obtain ⟨-, -, -, -, -, -, -, -, -, heps, -⟩ := cfgWf_facts hc
    exact (h.rampRequested heps h0 he).of_quiet hu

/-! ## A waiting operation keeps its checked operands -/

/-- INIT enumerates only while the ramp is idle. -/
theorem ne_initEnum_of_busy {s : State} (h : ProgressOk s) (hs : s.rampState ≠ .idle) (f : Freq) (n : Nat) (d : Word32)
    (c : Nat) : s.op ≠ .initEnum f n d c := by
  intro hop
  simp only [ProgressOk, hop] at h
  obtain ⟨-, -, -, hidle⟩ := h
  exact hs hidle

/-- While the ramp goes on, what waits for it may wait on. -/
theorem progressOk_of_busy {s t : State} (h : ProgressOk s) (hs : s.rampState ≠ .idle) (hop : t.op = s.op)
    (ht : t.rampState ≠ .idle) : ProgressOk t := by
  cases hp : s.op with
  | initEnum f n d c => exact absurd hp (ne_initEnum_of_busy h hs f n d c)
  | idle | enumCount => simp [ProgressOk, hop, hp]
  | ramp | initRamp => simpa [ProgressOk, hop, hp, hs, ht] using h

/-- Once the ramp is idle, what waited for it returns. -/
theorem progressOk_resume_of_idle {s : State} (hs : s.rampState = .idle) (hne : ∀ f n d c, s.op ≠ .initEnum f n d c) :
    ProgressOk s.resume := by
  cases hop : s.op with
  | initEnum f n d c => exact absurd hop (hne f n d c)
  | idle | enumCount | ramp | initRamp => simp [State.resume, ProgressOk, hop, hs]

theorem progressOk_resume {s : State} (h : ProgressOk s) : ProgressOk s.resume := by
  obtain hr | ⟨-, st, hr⟩ := resume_cases s <;> rw [hr]
  · exact h
  · trivial

theorem progressOk_abortedRamp {s : State} (h : ProgressOk s) (hs : s.rampState = .stepping) :
    ProgressOk (abortedRamp s).resume := by
  refine progressOk_resume_of_idle rfl fun f n d c hop => ?_
  have hne := ne_initEnum_of_busy h (by simp [hs])
  cases hp : s.op with
  | initEnum f n d c => exact hne f n d c hp
  | idle | enumCount | ramp | initRamp => simp [abortedRamp, setRampStatus, hp] at hop

theorem progressOk_settledRamp {s : State} (h : ProgressOk s) (hs : s.rampState = .settling) :
    ProgressOk (settledRamp s).resume := by
  have hbusy : s.rampState ≠ .idle := by simp [hs]
  have hne := ne_initEnum_of_busy h hbusy
  unfold settledRamp
  split
  · exact progressOk_resume_of_idle rfl hne
  · exact progressOk_resume (progressOk_of_busy h hbusy rfl nofun)

theorem effect_progressOk {s t : State} {i : Instr} (h : ProgressOk s) (he : Effect s i t) : ProgressOk t := by
  cases he with
  | replied | raised | sent | jobSent | received | enumBegun | wasReset | faultedStep => trivial
  | initBegun f n d hf hn hs => exact ⟨hf, hn.1, hn.2, hs⟩
  | rampBegun f p _ _ _ hi =>
    obtain ⟨-, rfl⟩ | ⟨-, rfl⟩ := hi
    · trivial
    · exact ⟨nofun, rfl⟩
  | nothing => exact h
  | stepped _ hen | skipped _ hen => exact progressOk_of_busy h (by simp [stepping_of_stepEnabled hen]) rfl nofun
  | aborted _ hen => exact progressOk_abortedRamp h (stepping_of_stepEnabled hen)
  | settled _ hs => exact progressOk_settledRamp h hs

theorem enumStep_progressOk {s : State} (h : ProgressOk s) : ProgressOk (enumStep s) := by
  rcases enumStep_cases s with ⟨c, _, hr⟩ | ⟨c, c', _, hr⟩ | ⟨f, n, d, _, hr⟩ | ⟨f, n, d, c, _, _, hr⟩ |
    ⟨f, n, d, c, c', hop, hr⟩ | hr <;> rw [hr]
  · trivial
  · trivial
  · trivial
  · obtain ht | ht | ⟨-, -, ht⟩ := initTail_cases (answered s) f n d c <;> rw [ht]
    · trivial
    · trivial
    · exact ⟨nofun, rfl⟩
  · simp only [ProgressOk, hop] at h
    obtain ⟨hf, hn, hn', hs⟩ := h
    exact ⟨hf, hn, hn', (quiet_answered s).rampState.trans hs⟩
  · exact h

theorem step_progressOk {s t : State} (h : ProgressOk s) (hst : step s = .next t) : ProgressOk t := by
  rcases step_cases hst with ⟨it, rest, i, _, _, _, he⟩ | ⟨it, rest, hop, _, ht⟩ | ⟨_, he⟩ | ⟨_, l, he⟩ | ⟨_, rfl⟩ |
    ⟨_, l, rfl⟩
  · exact effect_progressOk (s := { s with port := rest }) h (effect_of_exec he)
  · obtain rfl | rfl | ⟨f, rfl⟩ := ht
    · exact h
    · trivial
    · trivial
  · exact effect_progressOk h (effect_of_exec he)
  · exact effect_progressOk (s := { s with timerFirst := l }) h (effect_of_exec he)
  · exact progressOk_resume h
  · exact enumStep_progressOk (s := { s with timerFirst := l }) h

/-! ## The invariant -/

/-- Settles O52: the launch is at rest at BOOT_FREQ. -/
theorem launchMeetsTheInvariant : Obligations.LaunchMeetsTheInvariant := by
  intro c hc
  obtain ⟨-, -, -, -, -, -, -, -, -, -, hboot, -⟩ := cfgWf_facts hc
  have hr : RegistersOk (State.launch c) := registersOk_at_rest (jobIdOk_zero hc rfl) rfl rfl rfl hboot
  exact (inv_iff _).mpr ⟨hr, trivial, List.nodup_nil⟩

/-- Settles O53: a step keeps each part of the invariant, the registers, the waiting operation and FAULTS. -/
theorem everyStepKeepsTheInvariant : Obligations.EveryStepKeepsTheInvariant := by
  intro s t hc hi hst
  obtain ⟨hr, hp, hn⟩ := (inv_iff s).mp hi
  exact (inv_iff t).mpr ⟨step_registersOk hc hr hst, step_progressOk hp hst, (step_accumulates hst).nodup hn⟩

end Sys2Proof.Machine

/-! # The encoding: headers, composed frames, the round trip, and the wire rows (30_encoding.md) -/

namespace Sys2Proof

open Machine

/-! ## The headers the block composes (R64, R69) -/

theorem cmd_mem_composedKinds (g : Group) (code : BitVec 4) :
    HeaderKind.cmd g code ∈ composedKinds Config.wire ↔ code.toNat ≤ 3 ∧ ¬(code = 0 ∧ g = .all) := by
  revert code
  cases g <;> decide

theorem job_mem_composedKinds (w : Wire) (g : Group) : HeaderKind.job g ∈ composedKinds w := by
  cases g <;> simp [composedKinds]

/-- With the values of R7 no two kinds of header coincide, whatever JOB_HEADER_CMD is. -/
theorem headerKind_headerOf (hc : BitVec 4) {k : HeaderKind} (hk : k ∈ composedKinds Config.wire) :
    headerKind Config.wire hc (headerOf Config.wire hc k) = some k := by
  have h : ∀ hc : BitVec 4, ∀ k ∈ composedKinds Config.wire,
      headerKind Config.wire hc (headerOf Config.wire hc k) = some k := by decide
  exact h hc k hk

/-- A header byte that stands for a kind is composed for that kind. -/
theorem headerKind_some {w : Wire} {hc : BitVec 4} {h : Byte} {k : HeaderKind} (hk : headerKind w hc h = some k) :
    k ∈ composedKinds w ∧ headerOf w hc k = h :=
  ⟨List.mem_of_find?_eq_some hk, by simpa using List.find?_some hk⟩

theorem composedHeaders_wire (hc : BitVec 4) :
    composedHeaders Config.wire hc =
      [0x40, 0x41, 0x51, 0x42, 0x52, 0x43, 0x53, 0x20 ||| hc.setWidth 8, 0x30 ||| hc.setWidth 8] := by
  revert hc
  decide

/-- Settles O11: the composed headers are those of the composed kinds, the legal codes and the two job groups. -/
theorem composedHeadersAreTheNine : Obligations.ComposedHeadersAreTheNine := by
  rintro w h rfl
  have hnine : composedHeaders Config.wire Config.defaultJobHeaderCmd =
      [0x40, 0x41, 0x51, 0x42, 0x52, 0x43, 0x53, 0x21, 0x31] := by decide
  rw [← hnine]
  refine ⟨⟨?_, fun hh => ?_⟩, Iff.rfl⟩
  · rintro (⟨g, cmd, hcmd, hlegal, rfl⟩ | ⟨g, rfl⟩)
    · exact List.mem_map_of_mem ((cmd_mem_composedKinds g cmd).mpr ⟨code_le_three cmd hcmd, hlegal⟩)
    · exact List.mem_map_of_mem (job_mem_composedKinds _ g)
  · obtain ⟨k, hk, rfl⟩ := List.mem_map.mp hh
    cases k with
    | cmd g cmd =>
      have hcodes : ∀ c : BitVec 4, c.toNat ≤ 3 →
        c ∈ [Config.wire.cmdSetaddr, Config.wire.cmdWrite, Config.wire.cmdRead, Config.wire.cmdInactive] := by decide
      obtain ⟨hle, hlegal⟩ := (cmd_mem_composedKinds g cmd).mp hk
      exact .inl ⟨g, cmd, hcodes cmd hle, hlegal, rfl⟩
    | job g => exact .inr ⟨g, rfl⟩

/-! ## Composed frames read back (R71) -/

theorem parseFrame_cmdframe {w : Wire} {hc code : BitVec 4} {g : Group} {p : Bytes}
    (hk : headerKind w hc (headerOf w hc (.cmd g code)) = some (.cmd g code)) (hp : p.length ≤ 252) :
    parseFrame w hc (cmdframe w g code p) = .ok (.cmd g code p) := by
  rw [headerOf] at hk
  simp [parseFrame, cmdframe, txBytes, hk, Nat.mod_eq_of_lt (show p.length + 3 < 256 by omega)]

theorem parseFrame_jobframe {w : Wire} {hc : BitVec 4} {g : Group} {p : Bytes}
    (hk : headerKind w hc (headerOf w hc (.job g)) = some (.job g)) (hp : p.length ≤ 251) :
    parseFrame w hc (jobframe w hc g p) = .ok (.job g p) := by
  rw [headerOf] at hk
  simp [parseFrame, jobframe, txBytes, hk, Nat.mod_eq_of_lt (show p.length + 4 < 256 by omega)]

/-- Settles O10: the header tells the kind, and the length byte where the payload ends. -/
theorem composedFramesReadBack : Obligations.ComposedFramesReadBack :=
  ⟨fun hc g cmd _ hcode hlegal hp =>
    parseFrame_cmdframe (headerKind_headerOf hc ((cmd_mem_composedKinds g cmd).mpr ⟨hcode, hlegal⟩)) hp,
  fun hc g _ hp => parseFrame_jobframe (headerKind_headerOf hc (job_mem_composedKinds _ g)) hp⟩

/-! ## The round trip -/

/-- The encoder's bytes of a host operation are read back, and the bytes after them are left. -/
theorem readOp_encodeUnder {c : Cfg} {i : Instr} {bs : Bytes} (hg : c.wire.groupSingle ≠ c.wire.groupAll) (hi : i.wf = true)
    (he : encodeUnder c i = .host bs) (r : Bytes) : readOp c.wire (bs ++ r) = .ok (i, r) := by
  cases i with
  | frameSetaddr | frameWrite | frameRead | frameInactive | frameJob | respResult | respChipid => cases he
  | jobframe g j =>
    cases he
    simp [readOp, readOperands, readGroup_writeGroup hg, readJob_writeJob j hi]
  | _ =>
    cases he
    simp [readOp, readOperands, readGroup_writeGroup hg]

theorem decodeUnder_encodeUnder_host {c : Cfg} {i : Instr} {bs : Bytes} (hg : c.wire.groupSingle ≠ c.wire.groupAll)
    (hi : i.wf = true) (he : encodeUnder c i = .host bs) : decodeUnder c (encodeUnder c i) = .ok i := by
  have h := readOp_encodeUnder hg hi he []
  rw [List.append_nil] at h
  rw [he, decodeUnder, decodeHost, h]

/-- With the values of R7, a command frame with a composed header decodes as its payload form. -/
theorem decodeUnder_cmdframe {c : Cfg} (hw : c.wire = Config.wire) {g : Group} {code : BitVec 4} {p : Bytes} {i : Instr}
    (hk : HeaderKind.cmd g code ∈ composedKinds c.wire) (hp : p.length ≤ 252)
    (hi : frameInstr c.wire (.cmd g code p) = .ok i) : decodeUnder c (.frame (cmdframe c.wire g code p)) = .ok i := by
  rw [hw] at hk hi ⊢
  rw [decodeUnder, hw, parseFrame_cmdframe (headerKind_headerOf _ hk) hp]
  exact hi

theorem decodeUnder_jobframe {c : Cfg} (hw : c.wire = Config.wire) {g : Group} {p : Bytes} (hp : p.length ≤ 251) :
    decodeUnder c (.frame (jobframe c.wire c.jobHeaderCmd g p)) = frameInstr Config.wire (.job g p) := by
  rw [decodeUnder, hw, parseFrame_jobframe (headerKind_headerOf _ (job_mem_composedKinds _ g)) hp]

theorem JobDesc.wf_iff (j : JobDesc) : j.wf = true ↔ j.startingNonce.length = 4 ∧ j.nbits.length = 4 ∧ j.ntime.length = 4 ∧
    j.merkleRoot.length = 32 ∧ ∀ m ∈ j.midstates, m.length = 32 := by
  simp [JobDesc.wf, and_assoc]

theorem JobFields.wf_iff (f : JobFields) : f.wf = true ↔
    f.startingNonce.length = 4 ∧ f.nbits.length = 4 ∧ f.ntime.length = 4 ∧ f.merkle4.length = 4 ∧
    f.midstate0.length = 32 ∧ f.midstate1.length = 32 ∧ f.midstate2.length = 32 ∧ f.midstate3.length = 32 ∧
    (f.numMidstates = 4 ∨
      f.midstate1 = zeroMidstate ∧ f.midstate2 = zeroMidstate ∧ f.midstate3 = zeroMidstate) := by
  simp [JobFields.wf, and_assoc]

/-- The payload of well-formed job fields has the 146 bytes of R66. -/
theorem fieldsPayload_length {f : JobFields} (h : f.wf = true) : (fieldsPayload f).length = 146 := by
  obtain ⟨h1, h2, h3, h4, h5, h6, h7, h8, -⟩ := f.wf_iff.mp h
  simp [fieldsPayload, h1, h2, h3, h4, h5, h6, h7, h8]

/-- The fields of a job payload stand at their offsets (R66). -/
theorem payloadFields_fieldsPayload {f : JobFields} (h : f.wf = true) : payloadFields (fieldsPayload f) = f := by
  obtain ⟨h1, h2, h3, h4, h5, h6, h7, h8, -⟩ := f.wf_iff.mp h
  simp [payloadFields, fieldsPayload, List.drop_append, List.drop_of_length_le, List.take_of_length_le, h1, h2, h3, h4, h5,
    h6, h7, h8]

theorem frameInstr_fieldsPayload (w : Wire) (g : Group) {f : JobFields} (h : f.wf = true) :
    frameInstr w (.job g (fieldsPayload f)) = .ok (.frameJob g f) := by
  rw [frameInstr, payloadFields_fieldsPayload h, if_pos ⟨fieldsPayload_length h, h⟩]

/-- Settles O8: a frame reads back to its kind and payload, and each operand reader reads back what its writer wrote. -/
theorem decodeInvertsEncode : Obligations.DecodeInvertsEncode := by
  intro c i hw hi
  have hg : c.wire.groupSingle ≠ c.wire.groupAll := by rw [hw]; decide
  cases i with
  | frameSetaddr a => exact decodeUnder_cmdframe hw (by rw [hw]; decide) (by simp) (by rw [hw]; rfl)
  | frameWrite g => exact decodeUnder_cmdframe hw (by rw [hw]; cases g <;> decide) (by simp) (by rw [hw]; rfl)
  | frameRead g => exact decodeUnder_cmdframe hw (by rw [hw]; cases g <;> decide) (by simp) (by rw [hw]; rfl)
  | frameInactive g => exact decodeUnder_cmdframe hw (by rw [hw]; cases g <;> decide) (by simp) (by rw [hw]; rfl)
  | frameJob g f =>
    have hlen : (fieldsPayload f).length ≤ 251 := by rw [fieldsPayload_length hi]; decide
    exact (decodeUnder_jobframe hw hlen).trans (frameInstr_fieldsPayload _ g hi)
  | respResult => simp [encodeUnder, decodeUnder, decodeResult, respBytes]
  | respChipid body =>
    have hlen : 3 ≤ body.length := of_decide_eq_true hi
    simp [encodeUnder, decodeUnder, decodeChipid, respBytes, hlen]
  | _ => exact decodeUnder_encodeUnder_host hg hi rfl

/-! ## Whatever decodes is well formed (R66, R74) -/

/-- Every value that a reading can give has the property. -/
def Yields {α : Type} (P : α → Prop) (r : ReadResult α) : Prop :=
  ∀ x rest, r = .ok (x, rest) → P x

@[simp] theorem yields_ok {α : Type} (P : α → Prop) (x : α) (rest : Bytes) : Yields P (.ok (x, rest)) ↔ P x :=
  ⟨fun h => h x rest rfl, by rintro h _ _ ⟨⟩; exact h⟩

@[simp] theorem yields_error {α : Type} (P : α → Prop) (e : DecodeError) : Yields P (.error e) :=
  fun _ _ h => nomatch h

theorem yields_chain_iff {α β : Type} (P : β → Prop) (r : ReadResult α) (k : α → Bytes → ReadResult β) :
    Yields P (chain r k) ↔ ∀ x rest, r = .ok (x, rest) → Yields P (k x rest) := by
  cases r with
  | error e => simp
  | ok y =>
    obtain ⟨x, rest⟩ := y
    simp

theorem Yields.ite {α : Type} {P : α → Prop} {c : Prop} [Decidable c] {r r' : ReadResult α} (h : Yields P r)
    (h' : Yields P r') : Yields P (if c then r else r') := by
  split
  · exact h
  · exact h'

theorem readBytesN_length {n : Nat} {bs x rest : Bytes} (h : readBytesN n bs = .ok (x, rest)) : x.length = n := by
  unfold readBytesN at h
  split at h
  · cases h
  · cases h
    rw [List.length_take]
    omega

theorem readMidstates_yields (n : Nat) (bs : Bytes) : Yields (fun ms => ∀ m ∈ ms, m.length = 32) (readMidstates n bs) := by
  induction n generalizing bs with
  | zero => simp [readMidstates]
  | succ n ih =>
    simp only [readMidstates, yields_chain_iff, yields_ok, List.forall_mem_cons]
    intro m rest hm ms rest' hms
    exact ⟨readBytesN_length hm, ih rest ms rest' hms⟩

theorem readJob_yields (bs : Bytes) : Yields (fun j => j.wf = true) (readJob bs) := by
  simp only [readJob, yields_chain_iff, yields_ok]
  intro _ _ _ nonce _ hnonce nbits _ hnbits ntime _ hntime merkle _ hmerkle count _ _ ms _ hms
  exact (JobDesc.wf_iff _).mpr ⟨readBytesN_length hnonce, readBytesN_length hnbits, readBytesN_length hntime,
    readBytesN_length hmerkle, readMidstates_yields _ _ ms _ hms⟩

/-- Of the host operations only JOBFRAME has fixed-size fields, and its reader takes exactly their bytes. -/
theorem readOperands_yields (w : Wire) (op : Byte) (bs : Bytes) :
    Yields (fun i => i.wf = true) (readOperands w op bs) := by
  unfold readOperands
  repeat' apply Yields.ite
  all_goals simp only [yields_chain_iff, yields_ok, yields_error, Instr.wf, implies_true]
  exact fun _ r _ j rest hj => readJob_yields r j rest hj

theorem decodeHost_wf {w : Wire} {bs : Bytes} {i : Instr} (h : decodeHost w bs = .ok i) : i.wf = true := by
  unfold decodeHost at h
  split at h
  · cases h
  · cases h
    rename_i hr
    cases bs with
    | nil => cases hr
    | cons op rest => exact readOperands_yields w op rest i [] hr
  · cases h

theorem frameInstr_wf {w : Wire} {f : Frame} {i : Instr} (h : frameInstr w f = .ok i) : i.wf = true := by
  unfold frameInstr at h
  split at h
  · split_ifs at h
    · split at h
      · split_ifs at h
        cases h
        rfl
      · cases h
    · split at h
      · cases h; rfl
      · cases h
    · split at h
      · cases h; rfl
      · cases h
    · cases h; rfl
  · split_ifs at h with hf
    cases h
    exact hf.2

theorem decodeResult_wf {w : Wire} {bs : Bytes} {i : Instr} (h : decodeResult w bs = .ok i) : i.wf = true := by
  unfold decodeResult at h
  split at h
  · split_ifs at h
    cases h
    rfl
  · cases h

theorem decodeChipid_wf {w : Wire} {bs : Bytes} {i : Instr} (h : decodeChipid w bs = .ok i) : i.wf = true := by
  unfold decodeChipid at h
  split at h
  · split_ifs at h with _ hlen
    cases h
    exact decide_eq_true hlen
  · cases h

/-- A frame that spells an instruction passes the checks of R71. -/
theorem decodeUnder_frame_ok {c : Cfg} {bs : Bytes} {i : Instr} (h : decodeUnder c (.frame bs) = .ok i) :
    ∃ f, parseFrame c.wire c.jobHeaderCmd bs = .ok f ∧ frameInstr c.wire f = .ok i := by
  rw [decodeUnder] at h
  split at h
  · cases h
  · exact ⟨_, ‹_›, h⟩

/-- Settles O9, kind of item by kind of item. -/
theorem decodedInstructionsAreWellFormed : Obligations.DecodedInstructionsAreWellFormed := by
  intro c it i h
  cases it with
  | host bs => exact decodeHost_wf h
  | frame bs =>
    obtain ⟨f, -, hf⟩ := decodeUnder_frame_ok h
    exact frameInstr_wf hf
  | result bs => exact decodeResult_wf h
  | chipid bs => exact decodeChipid_wf h

/-! ## Headers and operation numbers that spell nothing (R70, R76) -/

/-- The third byte of a frame that passes the checks is a header the block composes. -/
theorem parseFrame_header {w : Wire} {hc : BitVec 4} {bs : Bytes} {f : Frame} (h : parseFrame w hc bs = .ok f) :
    ∃ hd, bs[2]? = some hd ∧ hd ∈ composedHeaders w hc := by
  unfold parseFrame at h
  split at h
  · rename_i p0 p1 hd l rest
    split at h
    · cases h
    · split at h
      · cases h
      · rename_i k hk
        obtain ⟨hmem, rfl⟩ := headerKind_some hk
        exact ⟨_, rfl, List.mem_map_of_mem hmem⟩
  · cases h

/-- Settles O5: the checks of R71 look the header up among the composed ones. -/
theorem reservedHeadersSpellNothing : Obligations.ReservedHeadersSpellNothing := by
  intro c bs i h
  obtain ⟨f, hf, -⟩ := decodeUnder_frame_ok h
  obtain ⟨hd, hget, hmem⟩ := parseFrame_header hf
  refine ⟨hd, hget, hmem, fun hw => ?_⟩
  rwa [hw, composedHeaders_wire] at hmem

theorem readOperands_unknown {op : Byte} (h : op ∉ opNumbers) (w : Wire) (bs : Bytes) :
    readOperands w op bs = .error (.unknownOp op) := by
  simp only [opNumbers, List.cons_append, List.nil_append, List.mem_cons, List.not_mem_nil, or_false, not_or] at h
  simp only [readOperands, h, if_false]

/-- Settles O3: the decoder finds no operand there, so REFUSED is marked. -/
theorem unknownOperationOnlySetsRefused : Obligations.UnknownOperationOnlySetsRefused := by
  intro s op bs rest hop hidle hport
  have hd : decodeUnder s.cfg (.host (op :: bs)) = .error (.unknownOp op) := by
    simp [decodeUnder, decodeHost, readOp, readOperands_unknown hop]
  refine ⟨State.markRefused { s with port := rest }, ?_, rfl, rfl, rfl, rfl, rfl, rfl, rfl, rfl, rfl, rfl⟩
  rw [step_of_decode_error hidle hport hd, unreadable_host_of_no_operand _ rfl]

/-- Settles O7, by running the decoder on each word. -/
theorem specWordsDecode : Obligations.SpecWordsDecode := by
  refine ⟨?_, ?_, ?_, ?_, ?_, ?_, ?_⟩ <;> decide +kernel

/-! ## Table words (log 4) -/

theorem zeroOp_host (nbits w : Nat) : ∃ bs, zeroOp nbits w = .host bs := by
  unfold zeroOp
  dsimp only
  split
  · exact ⟨_, rfl⟩
  · exact ⟨_, rfl⟩

/-- Of a word read as an 8-bit operation only its low byte counts. -/
theorem zeroOp_eight (w : Nat) : zeroOp 8 w = zeroOp 8 (BitVec.ofNat 8 w).toNat := by
  have hbyte : BitVec.ofNat 8 w = BitVec.ofNat 8 (BitVec.ofNat 8 w).toNat := by
    rw [BitVec.ofNat_toNat, BitVec.setWidth_eq]
  have hgiven : (List.range (8 / 8)).map (fun k => BitVec.ofNat 8 (w >>> (8 * k))) =
      (List.range (8 / 8)).map fun k => BitVec.ofNat 8 ((BitVec.ofNat 8 w).toNat >>> (8 * k)) :=
    congrArg (fun b => [b]) hbyte
  rw [zeroOp, zeroOp, hgiven]

/-- The job headers under the default JOB_HEADER_CMD are the numbers of CHECK_CHIPID and SETFREQ, which are read first. -/
theorem zeroOp_of_job_header {w : Nat} {g : Group}
    (h : headerKind Config.wire Config.defaultJobHeaderCmd (BitVec.ofNat 8 w) = some (.job g)) :
    ∃ i, decode (zeroOp 8 w) = .ok i := by
  rw [zeroOp_eight, ← (headerKind_some h).2]
  cases g with
  | single => exact ⟨.checkChipid 0 [], by decide +kernel⟩
  | all => exact ⟨.setfreq 0, by decide +kernel⟩

/-- A table word stands for a host operation, a result frame, or a command frame; for no job frame. -/
theorem tableItem_cases (nbits w : Nat) :
    (∃ bs, tableItem nbits w = .host bs) ∨ (∃ bs, tableItem nbits w = .result bs) ∨
    ∃ g code, HeaderKind.cmd g code ∈ composedKinds Config.wire ∧ tableItem nbits w = .frame (zeroFrame (.cmd g code)) := by
  unfold tableItem
  split
  · exact .inr (.inl ⟨_, rfl⟩)
  · split
    · exact .inl (zeroOp_host nbits w)
    · exact .inl (zeroOp_host nbits w)
    · rename_i e kind he hkind
      split
      · rename_i h8
        subst h8
        cases kind with
        | cmd g code => exact .inr (.inr ⟨g, code, (headerKind_some hkind).1, rfl⟩)
        | job g =>
          obtain ⟨i, hi⟩ := zeroOp_of_job_header hkind
          rw [hi] at he
          cases he
      · exact .inl (zeroOp_host nbits w)

theorem parseFrame_zeroFrame (hc : BitVec 4) {g : Group} {code : BitVec 4}
    (hk : HeaderKind.cmd g code ∈ composedKinds Config.wire) :
    parseFrame Config.wire hc (zeroFrame (.cmd g code)) =
      .ok (.cmd g code (List.replicate (if code = Config.wire.cmdWrite then 6 else 2) 0)) := by
  refine parseFrame_cmdframe (headerKind_headerOf hc hk) ?_
  rw [List.length_replicate]
  split <;> omega

/-- A table word decodes alike under every configuration with the wire values of R7. -/
theorem decodeUnder_tableItem {c : Cfg} (hw : c.wire = Config.wire) (nbits w : Nat) :
    decodeUnder c (tableItem nbits w) = decode (tableItem nbits w) := by
  obtain ⟨bs, h⟩ | ⟨bs, h⟩ | ⟨g, code, hk, h⟩ := tableItem_cases nbits w
  · rw [h, decode, decodeUnder, decodeUnder, hw]
    rfl
  · rw [h, decode, decodeUnder, decodeUnder, hw]
    rfl
  · rw [h, decode, decodeUnder, decodeUnder, hw, show Config.cfg.wire = Config.wire from rfl, parseFrame_zeroFrame _ hk,
      parseFrame_zeroFrame _ hk]

theorem decode_of_decodeTableWord {nbits w : Nat} {i : Instr} (h : decodeTableWord nbits w = some i) :
    decode (tableItem nbits w) = .ok i := by
  unfold decodeTableWord at h
  split at h
  · cases h
    assumption
  · cases h

/-- Settles O2: the placed item is at the head of the port, and decodes there as in the table. -/
theorem placedWordRunsNext : Obligations.PlacedWordRunsNext := by
  intro s nbits w i hw h
  have hd : decodeUnder s.cfg (tableItem nbits w) = .ok i :=
    (decodeUnder_tableItem hw nbits w).trans (decode_of_decodeTableWord h)
  rw [step_issue (it := tableItem nbits w) (rest := s.port) rfl rfl]
  simp only [issue, State.withFetchWord, placeWord, hd]

/-! ## Job frames (R63, R66, R131) -/

/-- The midstates of a job, and zeros for those a job with one lacks (R66). -/
theorem midstates_eq {k : Nat} {ms : List Bytes} (hk : k = 1 ∨ k = 4) (hlen : ms.length = k) :
    ms.getD 0 [] ++ extraMidstates k ms = ms.flatten ++ List.replicate (128 - 32 * k) 0 := by
  obtain rfl | rfl := hk
  · obtain ⟨a, rfl⟩ := List.length_eq_one_iff.mp hlen
    simp [extraMidstates]
  · match ms, hlen with
    | [a, b, c, d], _ => simp [extraMidstates]

theorem length_flatten_midstates {ms : List Bytes} (h : ∀ m ∈ ms, m.length = 32) : ms.flatten.length = 32 * ms.length := by
  rw [List.length_flatten, List.map_congr_left h]
  simp [Nat.mul_comm]

/-- The midstate area of a job payload has 128 bytes. -/
theorem length_midstates_area {j : JobDesc} (hwf : j.wf = true) (hk : j.k = 1 ∨ j.k = 4) (hlen : j.midstates.length = j.k) :
    (j.midstates.flatten ++ List.replicate (128 - 32 * j.k) (0 : Byte)).length = 128 := by
  obtain ⟨-, -, -, -, hm⟩ := j.wf_iff.mp hwf
  rw [List.length_append, length_flatten_midstates hm, List.length_replicate, hlen]
  omega

theorem jobpayload_eq {j : JobDesc} (hk : j.k = 1 ∨ j.k = 4) (hlen : j.midstates.length = j.k) (id : Byte) :
    jobpayload id j = id :: BitVec.ofNat 8 j.k :: (j.startingNonce ++ (j.nbits ++ (j.ntime ++ (j.merkleRoot.drop 28 ++
      (j.midstates.flatten ++ List.replicate (128 - 32 * j.k) 0))))) := by
  rw [← midstates_eq hk hlen]
  simp [jobpayload]

theorem jobpayload_length {j : JobDesc} (hwf : j.wf = true) (hk : j.k = 1 ∨ j.k = 4) (hlen : j.midstates.length = j.k)
    (id : Byte) : (jobpayload id j).length = 146 := by
  obtain ⟨h1, h2, h3, h4, -⟩ := j.wf_iff.mp hwf
  have hm := length_midstates_area hwf hk hlen
  rw [jobpayload_eq hk hlen]
  simp only [List.length_cons, List.length_append, List.length_drop] at hm ⊢
  omega

theorem job_header_wire (hc : BitVec 4) (g : Group) :
    headerOf Config.wire hc (.job g) = byGroup g 0x20 0x30 ||| hc.setWidth 8 := by
  cases g <;> rfl

/-- Settles O28: by the payload's form with the midstates and their padding last, and the fields' lengths. -/
theorem jobFrameLayout : Obligations.JobFrameLayout := by
  intro hc g id job hwf hk hlen
  have hpl := jobpayload_length hwf hk hlen id
  refine ⟨headerOf Config.wire hc (.job g) :: BitVec.ofNat 8 ((jobpayload id job).length + 4) :: jobpayload id job,
    rfl, by simp [hpl], ?_⟩
  rw [job_header_wire, hpl, jobpayload_eq hk hlen]
  obtain ⟨h1, h2, h3, h4, -⟩ := job.wf_iff.mp hwf
  refine ⟨rfl, ?_, ?_, ?_, ?_, ?_⟩ <;>
    simp [List.drop_append, List.drop_of_length_le, h1, h2, h3, h4]

theorem extraMidstates_one (ms : List Bytes) : extraMidstates 1 ms = zeroMidstate ++ (zeroMidstate ++ zeroMidstate) := rfl

theorem fieldsJob_k {f : JobFields} (h : f.numMidstates = 1 ∨ f.numMidstates = 4) :
    ((fieldsJob f).k = 1 ∨ (fieldsJob f).k = 4) ∧ (fieldsJob f).midstates.length = (fieldsJob f).k := by
  obtain h | h := h <;> simp [fieldsJob, h]

/-- JOBFRAME's payload of a job frame's fields is theirs, but for the job-id. -/
theorem jobpayload_fieldsJob {f : JobFields} (hwf : f.wf = true) (h : f.numMidstates = 1 ∨ f.numMidstates = 4) (id : Byte) :
    jobpayload id (fieldsJob f) = fieldsPayload { f with jobId := id } := by
  obtain ⟨-, -, -, -, -, -, -, -, hz⟩ := f.wf_iff.mp hwf
  obtain h | h := h
  · obtain ⟨h1, h2, h3⟩ := hz.resolve_left (by rw [h]; decide)
    simp [jobpayload, fieldsPayload, fieldsJob, extraMidstates_one, h, h1, h2, h3]
  · simp [jobpayload, fieldsPayload, fieldsJob, extraMidstates, h]

theorem nextJobId_eq {c : Cfg} (h : 0 < c.jobidMod) (ctr : Byte) :
    nextJobId c ctr = BitVec.ofNat 8 ((ctr.toNat + c.jobidStep.toNat) % c.jobidMod) := by
  rw [nextJobId, natMod, if_neg h.ne']

theorem sendJob_of_k {job : JobDesc} (h : (job.k = 1 ∨ job.k = 4) ∧ job.midstates.length = job.k) (s : State) (g : Group) :
    sendJob s g job = .reply (.ok .none) (({ s with jobidCtr := nextJobId s.cfg s.jobidCtr } : State).send
      (jobframe s.cfg.wire s.cfg.jobHeaderCmd g (jobpayload (nextJobId s.cfg s.jobidCtr) job))) := by
  rw [sendJob, if_neg]
  rintro (⟨h1, h4⟩ | hne)
  · exact h.1.elim h1 h4
  · exact hne h.2

theorem sendJob_of_bad_k {job : JobDesc} (h1 : job.k ≠ 1) (h4 : job.k ≠ 4) (s : State) (g : Group) :
    sendJob s g job = .fault (.operand (.nat job.k)) := by
  rw [sendJob, if_pos (.inl ⟨h1, h4⟩)]

/-- Settles O31: JOBFRAME sees a legal count exactly when the frame spells one, and its payload is then the frame's. -/
theorem frameJobSendsItsFields : Obligations.FrameJobSendsItsFields := by
  intro g f s hwf hmod
  refine ⟨fun hk id hid => ⟨?_, fun h => ?_⟩, fun h1 h4 => ?_⟩
  · rw [← nextJobId_eq hmod] at hid
    subst hid
    rw [exec, execFrameJob, sendJob_of_k (fieldsJob_k hk), jobpayload_fieldsJob hwf hk]
    rfl
  · subst h
    rfl
  · have hne {n : Byte} (h : f.numMidstates ≠ n) : (fieldsJob f).k ≠ n.toNat := fun e => h (BitVec.eq_of_toNat_eq e)
    rw [exec, execFrameJob, sendJob_of_bad_k (hne h1) (hne h4)]
    rfl

/-! ## The wire rows (log 3) -/

/-- Settles O20: each row's meaning is that of its rule's operation. -/
theorem wireRowsRunTheirRules : Obligations.WireRowsRunTheirRules := by
  intro s hw
  refine ⟨fun addr => ?_, fun g chip reg => ?_, fun g => ?_, fun g chip reg d0 d1 d2 d3 => ⟨_, rfl, rfl⟩, ?_, ?_⟩
  · rw [exec, execFrameSetaddr, setaddrFrame, hw]
    rfl
  · rw [exec, execFrameRead, readFrame, hw]
    cases g <;> rfl
  · rw [exec, execFrameInactive, inactiveFrame, hw]
    cases g <;> rfl
  · intro b0 b1 b2 b3 m i c
    refine ⟨_, rfl, ?_⟩
    rw [exec, execRecvResult, receive_cons rfl, hw]
    rfl
  · intro body
    refine ⟨_, rfl, ?_⟩
    rw [exec, execCheckChipid, hw]
    rfl

end Sys2Proof

/-! # Checksums and bit utilities (40_checksum.md) -/

namespace Sys2Proof

open Machine

/-! ## CRC5 (R100) -/

/-- R100 masks the shifted register to its five bits, which are all the model's register has. -/
theorem crc5Bit_eq_masked (w : Wire) (r : BitVec 5) (d : Bool) :
    crc5Bit w r d = ((r <<< 1) &&& 0x1F) ^^^ (if xor (r.getLsbD 4) d then w.crc5Poly else 0) := by
  rw [show (0x1F : BitVec 5) = BitVec.allOnes 5 from rfl, BitVec.and_allOnes, crc5Bit]

theorem crc5Bits_append (w : Wire) (xs ys : List Bool) :
    crc5Bits w (xs ++ ys) = ys.foldl (crc5Bit w) (crc5Bits w xs) :=
  List.foldl_append

/-- A bit equal to the register's top bit only shifts the register. -/
theorem crc5Bit_topBit (w : Wire) (r : BitVec 5) : crc5Bit w r (r.getLsbD 4) = r <<< 1 := by
  simp [crc5Bit]

/-- Fed its own bits from the top, the register shifts them out. -/
theorem foldl_crc5Bit_ownBits (w : Wire) (r : BitVec 5) {n : Nat} (hn : n ≤ 5) :
    ((List.range n).map fun k => r.getLsbD (4 - k)).foldl (crc5Bit w) r = r <<< n := by
  induction n with
  | zero => simp
  | succ n ih =>
    have htop : (r <<< n).getLsbD 4 = r.getLsbD (4 - n) := by
      rw [BitVec.getLsbD_shiftLeft, decide_eq_false (show ¬4 < n by omega)]
      rfl
    rw [List.range_succ, List.map_append, List.foldl_append, ih (by omega), BitVec.shiftLeft_add, ← crc5Bit_topBit w, htop]
    rfl

theorem bitsMsb_append (top : BitVec 3) (r : BitVec 5) :
    bitsMsb (top ++ r) = [top.getLsbD 2, top.getLsbD 1, top.getLsbD 0] ++ (List.range 5).map fun k => r.getLsbD (4 - k) := by
  have hbit (i : Nat) : BitVec.getLsbD (w := 8) (top ++ r) i = if i < 5 then r.getLsbD i else top.getLsbD (i - 5) :=
    BitVec.getLsbD_append
  simp only [bitsMsb, hbit]
  rfl

/-- The residue law of R100: the CRC in the last byte's low five bits shifts itself out. -/
theorem crc5_residue (w : Wire) (m : Bytes) (top : BitVec 3) :
    crc5 w (m ++ [top ++ crc5Bits w (m.flatMap bitsMsb ++ [top.getLsbD 2, top.getLsbD 1, top.getLsbD 0])]) = 0 := by
  rw [crc5, List.flatMap_append, List.flatMap_singleton, bitsMsb_append, ← List.append_assoc, crc5Bits_append,
    foldl_crc5Bit_ownBits w _ le_rfl, BitVec.shiftLeft_eq_zero le_rfl]
  rfl

/-- With the polynomial of R7 the feedback enters bits 0 and 2, and the others shift. -/
theorem crc5Bit_bits {w : Wire} (hp : w.crc5Poly = 0x05) (r : BitVec 5) (d : Bool) :
    (crc5Bit w r d).getLsbD 0 = xor (r.getLsbD 4) d ∧ (crc5Bit w r d).getLsbD 1 = r.getLsbD 0 ∧
    (crc5Bit w r d).getLsbD 2 = xor (r.getLsbD 1) (xor (r.getLsbD 4) d) ∧
    (crc5Bit w r d).getLsbD 3 = r.getLsbD 2 ∧ (crc5Bit w r d).getLsbD 4 = r.getLsbD 3 := by
  simp only [crc5Bit, hp]
  generalize xor (r.getLsbD 4) d = feedback
  cases feedback <;> simp

theorem exec_crc5 (bs : Bytes) (s : State) :
    exec (.crc5 bs) s = .next (returned s (.ok (.u8 ((crc5 s.cfg.wire bs).setWidth 8)))) := rfl

/-- Settles O12: R100's mask to the register's width changes nothing, and a register fed its own bits shifts them out. -/
theorem crc5RunsItsRegister : Obligations.Crc5RunsItsRegister := by
  refine ⟨fun bs s => ?_, ⟨rfl, rfl⟩, fun w r d hp => crc5Bit_bits hp r d, fun m top s => ?_⟩
  · simp only [← crc5Bit_eq_masked]
    exact exec_crc5 bs s
  · rw [exec_crc5, crc5_residue]
    rfl

/-! ## CRC16F (R101) -/

/-- R101 masks the shifted register to its sixteen bits, which are all the model's register has. -/
theorem crc16Shift_eq_masked (w : Wire) (r : BitVec 16) :
    crc16Shift w r = if r.getLsbD 15 then ((r <<< 1) ^^^ w.crc16Poly) &&& 0xFFFF else (r <<< 1) &&& 0xFFFF := by
  rw [show (0xFFFF : BitVec 16) = BitVec.allOnes 16 from rfl, BitVec.and_allOnes, BitVec.and_allOnes, crc16Shift]

theorem exec_crc16f (bs : Bytes) (s : State) :
    exec (.crc16f bs) s = .next (returned s (.ok (.u16 (crc16 s.cfg.wire bs)))) := rfl

/-- Settles O13: R101's masks to the register's width change nothing. -/
theorem crc16RunsItsRegister : Obligations.Crc16RunsItsRegister := by
  refine ⟨fun bs s => ?_, rfl, rfl, rfl⟩
  simp only [← crc16Shift_eq_masked]
  exact exec_crc16f bs s

/-! ## REV8 (R102) -/

theorem getLsbD_rev8 (b : Byte) {k : Nat} (hk : k < 8) : (rev8 b).getLsbD k = b.getLsbD (7 - k) := by
  rw [rev8, BitVec.getLsbD_reverse, BitVec.getMsbD_eq_getLsbD, decide_eq_true hk, Bool.true_and]

@[simp] theorem rev8_rev8 (b : Byte) : rev8 (rev8 b) = b := BitVec.reverse_reverse_eq

theorem exec_rev8 (b : Byte) (s : State) : exec (.rev8 b) s = .next (returned s (.ok (.u8 (rev8 b)))) := rfl

/-- Settles O14, bit by bit and by the involution. -/
theorem rev8ReversesBits : Obligations.Rev8ReversesBits := fun b s =>
  ⟨rev8 b, exec_rev8 b s, fun _ hk => getLsbD_rev8 b hk, by rw [exec_rev8, rev8_rev8]⟩

/-! ## Powers of two and mask values (R103, R104, R107) -/

/-- The exponent of the greatest power of two not above max(d, 1). -/
theorem log2_max_one_bounds (d : Word32) :
    2 ^ (max d.toNat 1).log2 ≤ max d.toNat 1 ∧ max d.toNat 1 < 2 ^ ((max d.toNat 1).log2 + 1) :=
  ⟨Nat.log2_self_le (by omega), Nat.lt_log2_self⟩

theorem log2_max_one_lt (d : Word32) : (max d.toNat 1).log2 < 32 :=
  (Nat.log2_lt (by omega)).mpr (max_lt d.isLt (by decide))

/-- POW2FLOOR takes 0 as 1 (R103). -/
theorem pow2floor_toNat (d : Word32) : (pow2floor d).toNat = 2 ^ (max d.toNat 1).log2 := by
  by_cases hd : d = 0
  · subst hd
    rfl
  · have hmax : max d.toNat 1 = d.toNat := max_eq_left (BitVec.toNat_pos_of_ne_zero hd)
    have hlt := Nat.pow_lt_pow_right (a := 2) (by decide) (log2_max_one_lt d)
    rw [hmax] at hlt ⊢
    rw [pow2floor, if_neg hd, BitVec.toNat_ofNat, Nat.mod_eq_of_lt hlt]

/-- The least power of two not below max(d, 1); it may be 2^32 (R104). -/
theorem pow2ceil_bounds (d : Word32) :
    ∃ k ≤ 32, pow2ceil d = 2 ^ k ∧ max d.toNat 1 ≤ 2 ^ k ∧ (k = 0 ∨ 2 ^ (k - 1) < max d.toNat 1) := by
  have hlog := log2_max_one_lt d
  obtain ⟨hle, hlt⟩ := log2_max_one_bounds d
  unfold pow2ceil
  dsimp only
  split
  next heq =>
    refine ⟨_, hlog.le, heq.symm, heq.ge, (Nat.eq_zero_or_pos _).imp_right fun hpos => ?_⟩
    exact (Nat.pow_lt_pow_right (by decide) (Nat.sub_lt hpos one_pos)).trans_eq heq
  next hne => exact ⟨_, hlog, rfl, hlt.le, .inr (lt_of_le_of_ne hle hne)⟩

theorem exec_pow2floor (d : Word32) (s : State) :
    exec (.pow2floor d) s = .next (returned s (.ok (.u32 (pow2floor d)))) := rfl

/-- Settles O15: above 0 the value is `2 ^ log2 d`. -/
theorem pow2FloorIsTheGreatestPower : Obligations.Pow2FloorIsTheGreatestPower := by
  intro d s
  refine ⟨pow2floor d, exec_pow2floor d s, fun hd => by rw [hd]; rfl, fun hd => ⟨_, pow2floor_toNat d, ?_⟩⟩
  have hpos := BitVec.toNat_pos_of_ne_zero hd
  rw [pow2floor_toNat, ← pow_succ', max_eq_left hpos]
  exact ⟨Nat.log2_self_le hpos.ne', Nat.lt_log2_self⟩

/-- A power of two less one passes the test of R107. -/
theorem and_succ_eq_zero {m k : Nat} (h : m + 1 = 2 ^ k) : m &&& (m + 1) = 0 := by
  rw [Nat.and_comm, h, Nat.eq_sub_of_add_eq h, Nat.and_two_pow_sub_one_eq_mod, Nat.mod_self]

theorem maskval_down (d : Word32) : (maskval .down d).toNat + 1 = 2 ^ (max d.toNat 1).log2 := by
  have hpos : 0 < 2 ^ (max d.toNat 1).log2 := Nat.two_pow_pos _
  have hlt := Nat.pow_lt_pow_right (a := 2) (by decide) (log2_max_one_lt d)
  have h := pow2floor_toNat d
  simp only [maskval]
  bv_omega

theorem maskval_up {d : Word32} {k : Nat} (hk : k ≤ 32) (h : pow2ceil d = 2 ^ k) : (maskval .up d).toNat + 1 = 2 ^ k := by
  have hpos : 0 < 2 ^ k := Nat.two_pow_pos k
  have hle : 2 ^ k ≤ 2 ^ 32 := Nat.pow_le_pow_right (by decide) hk
  rw [maskval, h, BitVec.toNat_ofNat]
  omega

theorem exec_maskval (d : Word32) (s : State) :
    exec (.maskval d) s = .next (returned s (.ok (.u32 (maskval s.cfg.maskRounding d)))) := rfl

/-- Settles O16, rounding by rounding. -/
theorem maskvalRoundsToAPowerLessOne : Obligations.MaskvalRoundsToAPowerLessOne := by
  intro d s
  cases hr : s.cfg.maskRounding with
  | down =>
    have hv := maskval_down d
    exact ⟨_, _, hr ▸ exec_maskval d s, hv, and_succ_eq_zero hv, fun _ => log2_max_one_bounds d, nofun⟩
  | up =>
    obtain ⟨k, hk, hceil, hb⟩ := pow2ceil_bounds d
    have hv := maskval_up hk hceil
    exact ⟨_, k, hr ▸ exec_maskval d s, hv, and_succ_eq_zero hv, nofun, fun _ => hb⟩

/-! ## Mask bytes (R105, R106) -/

theorem maskdecode_eq_or (m0 m1 m2 m3 : Byte) :
    maskdecode m0 m1 m2 m3 =
      ((rev8 m0).setWidth 32 <<< 24) ||| ((rev8 m1).setWidth 32 <<< 16) ||| ((rev8 m2).setWidth 32 <<< 8) |||
        (rev8 m3).setWidth 32 :=
  (BitVec.setWidth_eq _).symm.trans BitVec.setWidth_append_append_append_eq_shiftLeft_setWidth_or

/-- The bytes of a joined word are those joined. -/
theorem extractLsb'_join (a b c d : Byte) :
    (a ++ b ++ c ++ d).extractLsb' 24 8 = a ∧ (a ++ b ++ c ++ d).extractLsb' 16 8 = b ∧
    (a ++ b ++ c ++ d).extractLsb' 8 8 = c ∧ (a ++ b ++ c ++ d).extractLsb' 0 8 = d := by
  refine ⟨?_, ?_, ?_, BitVec.extractLsb'_append_eq_right⟩
  · rw [BitVec.extractLsb'_append_eq_of_le (by decide), BitVec.extractLsb'_append_eq_of_le (by decide)]
    exact BitVec.extractLsb'_append_eq_left
  · rw [BitVec.extractLsb'_append_eq_of_le (by decide), BitVec.extractLsb'_append_eq_of_le (by decide)]
    exact BitVec.extractLsb'_append_eq_right
  · rw [BitVec.extractLsb'_append_eq_of_le (by decide)]
    exact BitVec.extractLsb'_append_eq_right

theorem maskbytes_maskdecode (m0 m1 m2 m3 : Byte) : maskbytes (maskdecode m0 m1 m2 m3) = [m0, m1, m2, m3] := by
  obtain ⟨h0, h1, h2, h3⟩ := extractLsb'_join (rev8 m0) (rev8 m1) (rev8 m2) (rev8 m3)
  rw [maskbytes, maskdecode, h0, h1, h2, h3]
  simp only [rev8_rev8]

/-- A word is the join of its bytes. -/
theorem join_extractLsb' (v : Word32) :
    v.extractLsb' 24 8 ++ v.extractLsb' 16 8 ++ v.extractLsb' 8 8 ++ v.extractLsb' 0 8 = v := by
  rw [BitVec.extractLsb'_append_extractLsb'_eq_extractLsb' (show 24 = 16 + 8 from rfl),
    BitVec.extractLsb'_append_extractLsb'_eq_extractLsb' (show 16 = 8 + 8 from rfl),
    BitVec.extractLsb'_append_extractLsb'_eq_extractLsb' (show 8 = 0 + 8 from rfl)]
  exact BitVec.extractLsb'_eq_self

theorem exec_maskdecode (m0 m1 m2 m3 : Byte) (s : State) :
    exec (.maskdecode m0 m1 m2 m3) s = .next (returned s (.ok (.u32 (maskdecode m0 m1 m2 m3)))) := rfl

/-- Settles O17: joining and taking bytes are inverse, and so is reversing each. -/
theorem maskdecodeInvertsMaskbytes : Obligations.MaskdecodeInvertsMaskbytes := by
  refine ⟨fun m0 m1 m2 m3 s => ⟨?_, maskbytes_maskdecode m0 m1 m2 m3⟩, fun v => ⟨_, _, _, _, rfl, ?_⟩⟩
  · rw [← maskdecode_eq_or]
    exact exec_maskdecode m0 m1 m2 m3 s
  · simp only [maskdecode, rev8_rev8]
    exact join_extractLsb' v

end Sys2Proof

/-! # The frames the block sends pass their checks (R133) -/

namespace Sys2Proof

open Machine

/-! ## Composed frames pass the checks of R133 -/

theorem headerType_command (g : Group) (code : BitVec 4) :
    headerType (header Config.wire Config.wire.typeCmd g code) = headerType Config.wire.typeCmd := by
  revert code
  cases g <;> decide

theorem headerType_job (hc : BitVec 4) (g : Group) :
    headerType (header Config.wire Config.wire.typeJob g hc) = headerType Config.wire.typeJob := by
  revert hc
  cases g <;> decide

theorem frameOk_cmdframe (g : Group) (code : BitVec 4) {p : Bytes} (hp : p.length ≤ 252) :
    frameOk Config.wire (cmdframe Config.wire g code p) = true := by
  simp [frameOk, cmdframe, txBytes, headerType_command, Nat.mod_eq_of_lt (show p.length + 3 < 256 by omega)]

theorem frameOk_jobframe (hc : BitVec 4) (g : Group) {p : Bytes} (hp : p.length ≤ 251) :
    frameOk Config.wire (jobframe Config.wire hc g p) = true := by
  have hne : headerType Config.wire.typeJob ≠ headerType Config.wire.typeCmd := by decide
  simp [frameOk, jobframe, txBytes, headerType_job, hne, Nat.mod_eq_of_lt (show p.length + 4 < 256 by omega)]

/-! ## The frames a step sends -/

/-- The frames the block sends under a configuration: a command frame of its own, a mask write, the frame of a well-formed
job, or a configured frame (R132). -/
inductive BlockFrame (c : Cfg) : Bytes → Prop where
  | command {f : Bytes} (h : ComposedCommand c f) : BlockFrame c f
  | mask (d : Word32) : BlockFrame c (maskFrame c d)
  | job (g : Group) (id : Byte) (j : JobDesc) (hwf : j.wf = true)
      (hk : (j.k = 1 ∨ j.k = 4) ∧ j.midstates.length = j.k) :
      BlockFrame c (jobframe c.wire c.jobHeaderCmd g (jobpayload id j))
  | configured {f : Bytes} (h : f ∈ c.familyInitFrames ++ c.baudFrames) : BlockFrame c f

theorem blockFrame_initFrames (c : Cfg) (n : Nat) (d : Word32) : ∀ f ∈ initFrames c n d, BlockFrame c f := by
  intro f hf
  simp only [initFrames, List.mem_append, List.mem_singleton] at hf
  obtain (((rfl | hf) | hf) | rfl) | hf := hf
  · exact .command (composed_inactive ..)
  · exact .command (composed_addrs c n f hf)
  · exact .configured (List.mem_append_left _ hf)
  · exact .mask d
  · exact .configured (List.mem_append_right _ hf)

/-- From `s` to `t` TX_LOG gains no frame but the block's own. -/
def SendsBlockFrames (s t : State) : Prop :=
  ∀ f, TxEvent.send f ∈ t.txLog → TxEvent.send f ∈ s.txLog ∨ BlockFrame s.cfg f

theorem SendsBlockFrames.of_append {s t : State} {new : List TxEvent} (h : t.txLog = s.txLog ++ new)
    (hnew : ∀ f, .send f ∈ new → BlockFrame s.cfg f) : SendsBlockFrames s t := by
  intro f hf
  rw [h, List.mem_append] at hf
  exact hf.imp_right (hnew f)

theorem SendsBlockFrames.of_eq {s t : State} (h : t.txLog = s.txLog) : SendsBlockFrames s t :=
  fun _ hf => .inl (h ▸ hf)

theorem SendsBlockFrames.trans {s t u : State} (hcfg : t.cfg = s.cfg) (h : SendsBlockFrames s t)
    (k : SendsBlockFrames t u) : SendsBlockFrames s u :=
  fun f hf => (k f hf).elim (h f) fun hb => .inr (hcfg ▸ hb)

theorem sendsBlockFrames_sendAll {s : State} {fs : List Bytes} (h : ∀ f ∈ fs, BlockFrame s.cfg f) :
    SendsBlockFrames s (s.sendAll fs) :=
  .of_append (congrArg State.txLog (sendAll_eq s fs)) fun f hf => h f (by simpa using hf)

theorem sendsBlockFrames_send {s : State} {f : Bytes} (h : BlockFrame s.cfg f) : SendsBlockFrames s (s.send f) :=
  sendsBlockFrames_sendAll (fs := [f]) (by simpa using h)

theorem sendsBlockFrames_answered (s : State) : SendsBlockFrames s (answered s) :=
  .of_append (congrArg (· ++ [_]) s.dropAnswer_txLog) nofun

theorem sendsBlockFrames_settledRamp (s : State) : SendsBlockFrames s (settledRamp s).resume :=
  .of_append ((resume_txLog _).trans (settledRamp_txLog s)) nofun

/-- The job that a well-formed job frame stands for is well formed. -/
theorem fieldsJob_wf {f : JobFields} (h : f.wf = true) : (fieldsJob f).wf = true := by
  obtain ⟨h1, h2, h3, h4, h5, h6, h7, h8, -⟩ := f.wf_iff.mp h
  rw [JobDesc.wf_iff]
  refine ⟨h1, h2, h3, by simp [fieldsJob, h4], ?_⟩
  unfold fieldsJob
  split <;> simp [h5, h6, h7, h8]

theorem effect_sendsBlockFrames {s t : State} {i : Instr} (hi : i.wf = true) (h : Effect s i t) :
    SendsBlockFrames s t := by
  cases h with
  | replied | raised | enumBegun | wasReset | nothing | skipped | faultedStep => exact .of_eq rfl
  | aborted => exact .of_eq (resume_txLog _)
  | rampBegun f p => cases p <;> exact .of_eq rfl
  | sent v fs hfs =>
    refine sendsBlockFrames_sendAll fun f hf => ?_
    obtain hc | ⟨d, rfl⟩ := hfs f hf
    · exact .command hc
    · exact .mask d
  | jobSent g job hk hjob =>
    have hwf : job.wf = true := by
      obtain rfl | ⟨f, rfl, rfl⟩ := hjob
      · exact hi
      · exact fieldsJob_wf hi
    exact sendsBlockFrames_send (s := s) (.job g _ job hwf hk)
  | received s' a n ms clear st hs =>
    have hs' : s'.txLog = s.txLog := by rcases hs with rfl | rfl <;> simp
    cases clear with
    | false => exact .of_append (congrArg (· ++ [_]) hs') nofun
    | true => exact .of_append ((congrArg (· ++ [_] ++ [_]) hs').trans (List.append_assoc ..)) nofun
  | initBegun => exact sendsBlockFrames_send (s := s) (.command (composed_read ..))
  | stepped _ _ e => exact sendsBlockFrames_send (s := s) (.command (composed_freq ..))
  | settled => exact sendsBlockFrames_settledRamp s

theorem enumStep_sendsBlockFrames (s : State) : SendsBlockFrames s (enumStep s) := by
  have ha := sendsBlockFrames_answered s
  have hcfg := (quiet_answered s).cfg
  have hframes (n : Nat) (d : Word32) : SendsBlockFrames s ((answered s).sendAll (initFrames (answered s).cfg n d)) :=
    ha.trans hcfg (sendsBlockFrames_sendAll (blockFrame_initFrames _ n d))
  rcases enumStep_cases s with ⟨c, -, h⟩ | ⟨c, c', -, h⟩ | ⟨f, n, d, -, h⟩ | ⟨f, n, d, c, -, -, h⟩ |
    ⟨f, n, d, c, c', -, h⟩ | h <;> rw [h]
  · exact ha
  · exact ha
  · exact ha
  · obtain h | h | ⟨-, -, h⟩ := initTail_cases (answered s) f n d c <;> rw [h]
    · exact ha
    · exact hframes n d
    · exact hframes n d
  · exact ha
  · exact .of_eq rfl

/-- Every frame a step sends is the block's own; that a job is well formed is the decoder's doing. -/
theorem step_sendsBlockFrames {s t : State} (h : step s = .next t) : SendsBlockFrames s t := by
  rcases step_cases h with ⟨it, rest, i, -, -, hd, he⟩ | ⟨it, rest, -, -, ht⟩ | ⟨-, he⟩ | ⟨-, l, he⟩ | ⟨-, rfl⟩ |
    ⟨-, l, rfl⟩
  · have hwf := decodedInstructionsAreWellFormed _ _ _ hd
    exact effect_sendsBlockFrames (s := { s with port := rest }) hwf (effect_of_exec he)
  · obtain rfl | rfl | ⟨f, rfl⟩ := ht <;> exact .of_eq rfl
  · exact effect_sendsBlockFrames rfl (effect_of_exec he)
  · exact effect_sendsBlockFrames (s := { s with timerFirst := l }) rfl (effect_of_exec he)
  · exact .of_eq (resume_txLog s)
  · exact enumStep_sendsBlockFrames { s with timerFirst := l }

theorem BlockFrame.frameOk {c : Cfg} {f : Bytes} (hw : c.wire = Config.wire) (hc : cfgWf c = true) (h : BlockFrame c f) :
    frameOk c.wire f = true := by
  cases h with
  | command h =>
    obtain ⟨g, code, p, rfl, hp, -⟩ := h
    rw [hw]
    exact frameOk_cmdframe g code hp
  | mask d =>
    rw [maskFrame, hw]
    exact frameOk_cmdframe _ _ (by simp [maskbytes])
  | job g id j hwf hk =>
    rw [hw]
    exact frameOk_jobframe _ g (by rw [jobpayload_length hwf hk.1 hk.2]; decide)
  | configured h =>
    obtain ⟨-, hinit, hbaud, -⟩ := cfgWf_facts hc
    exact (List.mem_append.mp h).elim (hinit f) (hbaud f)

/-- Settles O54: a step sends only the block's own frames, and each kind of them passes. -/
theorem everyFrameSentPassesItsChecks : Obligations.EveryFrameSentPassesItsChecks := by
  intro s t hw hc hlog hst f hf
  rw [(step_accumulates hst).cfg]
  exact (step_sendsBlockFrames hst f hf).elim (hlog f) (BlockFrame.frameOk hw hc)

end Sys2Proof

/-! # The operations of the frame compositor (41_frames.md) -/

namespace Sys2Proof

open Machine

/-! ## How statements name an operation's end -/

theorem conclude_send (s : State) (f : Bytes) (st : Status) :
    s.conclude (.reply st (s.send f)) = sentThen s [f] st := rfl

theorem conclude_sendAll (s : State) (fs : List Bytes) (st : Status) :
    s.conclude (.reply st (s.sendAll fs)) = sentThen s fs st := by
  rw [conclude_reply, sendAll_eq]
  rfl

theorem conclude_faultedWith (s : State) (f : StickyFault) : s.conclude (.fault f) = faultedWith s f := rfl

theorem conclude_returned (s : State) (st : Status) : s.conclude (.reply st s) = returned s st := rfl

/-! ## The bytes of the composed frames, with the values of R7 (R65, R78) -/

theorem cmdframe_wire (g : Group) (code : BitVec 4) (p : Bytes) :
    cmdframe Config.wire g code p = commandBytes (header Config.wire Config.wire.typeCmd g code) p := rfl

theorem writeFrame_wire (g : Group) (chip reg : Byte) (data : Bytes) :
    writeFrame Config.wire g chip reg data = commandBytes (byGroup g 0x41 0x51) (chip :: reg :: data) := by
  cases g <;> rfl

theorem readFrame_wire (g : Group) (chip reg : Byte) :
    readFrame Config.wire g chip reg = commandBytes (byGroup g 0x42 0x52) [chip, reg] := by
  cases g <;> rfl

theorem setaddrFrame_wire (addr : Byte) : setaddrFrame Config.wire addr = commandBytes 0x40 [addr, 0x00] := rfl

theorem inactiveFrame_wire (g : Group) : inactiveFrame Config.wire g = commandBytes (byGroup g 0x43 0x53) [0x00, 0x00] := by
  cases g <;> rfl

theorem addrFrames_wire (n : Nat) :
    addrFrames Config.wire n = (List.range n).map fun i => commandBytes 0x40 [BitVec.ofNat 8 (i * (256 / n)), 0x00] := rfl

theorem maskFrame_wire {c : Cfg} (hw : c.wire = Config.wire) (d : Word32) :
    maskFrame c d = commandBytes 0x51 (0x00 :: c.family.ticketMaskReg :: maskbytes (maskval c.maskRounding d)) := by
  rw [maskFrame, hw]
  rfl

theorem freqFrame_wire {c : Cfg} (hw : c.wire = Config.wire) (e : PllEntry) :
    freqFrame c e = commandBytes 0x51 (0x00 :: c.family.pll0Reg :: plldata c.family e) := by
  rw [freqFrame, hw]
  rfl

/-- The bytes of PROBE (R123). -/
theorem probe_bytes : readFrame Config.wire .all 0x00 0x00 = [0x55, 0xAA, 0x52, 0x05, 0x00, 0x00, 0x0A] := by decide

/-- The bytes of INACTIVE (R126). -/
theorem inactive_bytes : inactiveFrame Config.wire .all = [0x55, 0xAA, 0x53, 0x05, 0x00, 0x00, 0x03] := by decide

/-! ## Operations that send one frame (R122 to R124, R126, R127) -/

/-- Settles O18: each operation sends one frame, whose bytes are known. -/
theorem fixedFramesAreSent : Obligations.FixedFramesAreSent := by
  intro s hw
  refine ⟨fun g chip reg => ?_, ?_, fun addr => ?_, ?_⟩
  · rw [exec, execRdreg, sendFrame, conclude_send, hw, readFrame_wire]
  · rw [exec, execProbe, sendFrame, conclude_send, hw, probe_bytes]
  · rw [exec, execSetaddr, sendFrame, conclude_send, hw, setaddrFrame_wire]
  · rw [exec, execInactive, sendFrame, conclude_send, hw, inactive_bytes]

/-- Settles O23: the data of the mask write are the mask bytes of R106. -/
theorem diffmaskWritesTheReversedMask : Obligations.DiffmaskWritesTheReversedMask := by
  rintro d m s hw rfl
  rw [exec, execDiffmask, sendFrame, conclude_send, maskFrame_wire hw]
  rfl

/-! ## Register writes (R120, R121) -/

/-- The mask check of R121 on four bytes. -/
theorem maskLegal_eq_false_iff (d0 d1 d2 d3 : Byte) :
    maskLegal [d0, d1, d2, d3] = false ↔
      (maskdecode d0 d1 d2 d3).toNat &&& ((maskdecode d0 d1 d2 d3).toNat + 1) ≠ 0 := by
  simp [maskLegal, isMask]

theorem wrhazard_mask {fam : Family} {reg : Byte} {data : Bytes}
    (h : reg = fam.ticketMaskReg ∧ maskLegal data = false) : wrhazard fam reg data = some (.hazardMask data) :=
  if_pos h

theorem wrhazard_freq {fam : Family} {reg : Byte} {data : Bytes}
    (hm : ¬(reg = fam.ticketMaskReg ∧ maskLegal data = false)) (hf : reg = fam.pll0Reg) :
    wrhazard fam reg data = some (.hazardFreqData data) := by
  rw [wrhazard, if_neg hm, if_pos hf]

theorem wrhazard_none {fam : Family} {reg : Byte} {data : Bytes}
    (hm : ¬(reg = fam.ticketMaskReg ∧ maskLegal data = false)) (hf : reg ≠ fam.pll0Reg) :
    wrhazard fam reg data = none := by
  rw [wrhazard, if_neg hm, if_neg hf]

theorem writeRegister_of_hazard {s : State} {reg : Byte} {data : Bytes} {f : StickyFault} (hlen : data.length = 4)
    (h : wrhazard s.cfg.family reg data = some f) (g : Group) (chip : Byte) :
    writeRegister s g chip reg data = .fault f := by
  simp [writeRegister, hlen, h]

theorem writeRegister_of_no_hazard {s : State} {reg : Byte} {data : Bytes} (hlen : data.length = 4)
    (h : wrhazard s.cfg.family reg data = none) (g : Group) (chip : Byte) :
    writeRegister s g chip reg data = .reply (.ok .none) (s.send (writeFrame s.cfg.wire g chip reg data)) := by
  simp [writeRegister, hlen, h]

/-- Settles O19: by the hazard that the check of R121 finds. -/
theorem wrregChecksThenSends : Obligations.WrregChecksThenSends := by
  refine ⟨fun g chip reg data s hlen => ?_, fun g chip reg d0 d1 d2 d3 s hw => ?_⟩
  · rw [exec, execWrreg, writeRegister, if_pos hlen, conclude_faultedWith]
  · rw [exec, execWrreg]
    simp only [← maskLegal_eq_false_iff]
    split_ifs with hm hf
    · rw [writeRegister_of_hazard rfl (wrhazard_mask hm), conclude_faultedWith]
    · rw [writeRegister_of_hazard rfl (wrhazard_freq hm hf), conclude_faultedWith]
    · rw [writeRegister_of_no_hazard rfl (wrhazard_none hm hf), conclude_send, hw, writeFrame_wire]

/-! ## CMDFRAME (R120) -/

/-- With the values of R7 the command codes are the numbers up to 3. -/
theorem commandCode_of_le {cmd : Nat} (h : cmd ≤ 3) : commandCode Config.wire cmd = some (BitVec.ofNat 4 cmd) := by
  interval_cases cmd <;> decide

theorem commandCode_of_lt {cmd : Nat} (h : 3 < cmd) : commandCode Config.wire cmd = none := by
  cases hc : commandCode Config.wire cmd with
  | none => rfl
  | some c =>
    obtain ⟨hn, hmem⟩ := commandCode_some hc
    have := code_le_three c hmem
    omega

theorem ofNat_eq_setaddr_iff {cmd : Nat} (h : cmd ≤ 3) : BitVec.ofNat 4 cmd = Config.wire.cmdSetaddr ↔ cmd = 0 := by
  interval_cases cmd <;> decide

theorem ofNat_eq_write_iff {cmd : Nat} (h : cmd ≤ 3) : BitVec.ofNat 4 cmd = Config.wire.cmdWrite ↔ cmd = 1 := by
  interval_cases cmd <;> decide

theorem header_ofNat {cmd : Nat} (h : cmd ≤ 3) (g : Group) :
    header Config.wire Config.wire.typeCmd g (BitVec.ofNat 4 cmd) = byGroup g 0x40 0x50 ||| BitVec.ofNat 8 cmd := by
  interval_cases cmd <;> cases g <;> decide

theorem rawHazard_of_not_write {c : Cfg} {code : BitVec 4} {p : Bytes} (h : code ≠ c.wire.cmdWrite ∨ p.length < 2) :
    rawHazard c code p = none := by
  unfold rawHazard
  split
  · exact if_neg (h.resolve_right (by simp))
  · rfl

theorem rawHazard_write (c : Cfg) (chip reg : Byte) (data : Bytes) :
    rawHazard c c.wire.cmdWrite (chip :: reg :: data) = wrhazard c.family reg data :=
  if_pos rfl

section

variable {s : State} {g : Group} {cmd : Nat} {p : Bytes} (hw : s.cfg.wire = Config.wire) (hcmd : cmd ≤ 3)
  (hlegal : ¬(cmd = 0 ∧ g = .all))
include hw hcmd hlegal

theorem commandFrame_of_long (hp : 252 < p.length) : commandFrame s g cmd p = .fault (.operand (.nat p.length)) := by
  simp [commandFrame, hw, commandCode_of_le hcmd, ofNat_eq_setaddr_iff hcmd, hlegal, hp]

theorem commandFrame_of_hazard {f : StickyFault} (hp : p.length ≤ 252)
    (hf : rawHazard s.cfg (BitVec.ofNat 4 cmd) p = some f) : commandFrame s g cmd p = .fault f := by
  simp [commandFrame, hw, commandCode_of_le hcmd, ofNat_eq_setaddr_iff hcmd, hlegal, hp, hf]

theorem commandFrame_of_no_hazard (hp : p.length ≤ 252) (hf : rawHazard s.cfg (BitVec.ofNat 4 cmd) p = none) :
    commandFrame s g cmd p =
      .reply (.ok .none) (s.send (commandBytes (byGroup g 0x40 0x50 ||| BitVec.ofNat 8 cmd) p)) := by
  rw [← header_ofNat hcmd, ← cmdframe_wire]
  simp [commandFrame, hw, commandCode_of_le hcmd, ofNat_eq_setaddr_iff hcmd, hlegal, hp, hf]

end

/-- Settles O21: by the code, the length and the hazard, in that order. -/
theorem cmdframeChecksThenSends : Obligations.CmdframeChecksThenSends := by
  intro g cmd p s hw
  rw [exec, execCmdframe]
  refine ⟨fun hcmd => ?_, ?_, fun hcmd hlegal hp => ?_, fun hcmd hlegal hp hwrite => ?_, ?_⟩
  · rw [commandFrame, hw, commandCode_of_lt hcmd]
    rfl
  · rintro rfl rfl
    rw [commandFrame, hw, commandCode_of_le (by omega)]
    rfl
  · rw [commandFrame_of_long hw hcmd hlegal hp, conclude_faultedWith]
  · have hcode : BitVec.ofNat 4 cmd ≠ s.cfg.wire.cmdWrite ∨ p.length < 2 :=
      hwrite.imp_left fun h => by rwa [hw, ne_eq, ofNat_eq_write_iff hcmd]
    rw [commandFrame_of_no_hazard hw hcmd hlegal hp (rawHazard_of_not_write hcode), conclude_send]
  · rintro chip reg data rfl rfl hp
    have hraw : rawHazard s.cfg (BitVec.ofNat 4 1) (chip :: reg :: data) = wrhazard s.cfg.family reg data := by
      rw [← rawHazard_write s.cfg chip, hw]
      rfl
    split_ifs with hm hf
    · rw [commandFrame_of_hazard hw (by omega) (by simp) hp (hraw.trans (wrhazard_mask hm)), conclude_faultedWith]
    · rw [commandFrame_of_hazard hw (by omega) (by simp) hp (hraw.trans (wrhazard_freq hm hf)), conclude_faultedWith]
    · rw [commandFrame_of_no_hazard hw (by omega) (by simp) hp (hraw.trans (wrhazard_none hm hf)), conclude_send]
      cases g <;> rfl

/-! ## ADDRASSIGN (R125) -/

/-- The last of `n` addresses still fits a byte. -/
theorem address_le {n i : Nat} (hn : n ≤ 256) (hi : i < n) : i * (256 / n) ≤ 255 := by
  have hpos : 0 < 256 / n := Nat.div_pos hn (by omega)
  have hnext : (i + 1) * (256 / n) ≤ 256 := (Nat.mul_le_mul_right _ hi).trans (Nat.mul_div_le 256 n)
  rw [Nat.succ_mul] at hnext
  omega

/-- Settles O22: the addresses are the multiples of a positive step, of which `n` fit in 256. -/
theorem addrassignSpreadsTheAddresses : Obligations.AddrassignSpreadsTheAddresses := by
  intro n s
  rw [exec, execAddrassign, assignAddresses]
  refine ⟨fun h1 hn hw => ⟨?_, fun i hi => address_le hn hi, fun i _ j _ h => ?_⟩, fun h => ?_⟩
  · rw [if_neg (by omega), conclude_sendAll, hw, addrFrames_wire]
  · exact Nat.eq_of_mul_eq_mul_right (Nat.div_pos hn h1) h
  · rw [if_pos h, conclude_faultedWith]

/-! ## FREQFRAME (R128) -/

theorem freqHazard_iff (s : State) (f : Freq) :
    freqHazard s f = true ↔ s.rampState ≠ .idle ∨ s.cfg.rampStep < |f - s.rampCur| := by
  simp [freqHazard, absDiff_eq]

/-- Settles O24: the checks of R128 in their order, and the bytes of the PLL write. -/
theorem freqframeChecksThenWrites : Obligations.FreqframeChecksThenWrites := by
  intro e s hw he
  rw [exec, execFreqframe, frequencyFrame, if_neg (not_lt.mpr he)]
  simp only [freqHazard_iff]
  split_ifs
  · rw [conclude_returned]
  · rw [conclude_faultedWith]
  · rw [conclude_send, freqFrame_wire hw]
    rfl

/-! ## JOBFRAME (R131) -/

theorem sendJob_of_not_k {job : JobDesc} (h : ¬((job.k = 1 ∨ job.k = 4) ∧ job.midstates.length = job.k)) (s : State)
    (g : Group) : sendJob s g job = .fault (.operand (.nat job.k)) := by
  rw [sendJob, if_pos]
  by_contra hn
  simp only [not_or, not_and_or, not_not] at hn
  exact h hn

/-- Settles O27: by whether the job's count of midstates is one that a frame can carry. -/
theorem jobframeAllocatesAndSends : Obligations.JobframeAllocatesAndSends := by
  intro g job s hmod
  refine ⟨fun hk hlen id hid => ?_, fun h => ?_⟩
  · rw [← nextJobId_eq hmod] at hid
    subst hid
    rw [exec, execJobframe, sendJob_of_k ⟨hk, hlen⟩]
    rfl
  · rw [exec, execJobframe, sendJob_of_not_k h, conclude_faultedWith]

theorem execAll_cons {i : Instr} {s t : State} (h : exec i s = .next t) (rest : List Instr) :
    execAll (i :: rest) s = execAll rest t := by
  rw [execAll, h]

/-- The TX_LOG entry of the job frame sent as number `x.2`, counted from 0, with the default step and modulus. -/
def countedJobEntry (c : Cfg) (x : (Group × JobDesc) × Nat) : TxEvent :=
  .send (jobframe c.wire c.jobHeaderCmd x.1.1 (jobpayload (BitVec.ofNat 8 (4 * (x.2 + 1) % 128)) x.1.2))

/-- With the default step and modulus, after `m` job frames JOBFRAME takes the next multiple of 4. -/
theorem exec_jobframe_counted {s : State} {g : Group} {job : JobDesc} {m : Nat} (hstep : s.cfg.jobidStep = 4)
    (hmod : s.cfg.jobidMod = 128) (hctr : s.jobidCtr = BitVec.ofNat 8 (4 * m % 128))
    (hk : (job.k = 1 ∨ job.k = 4) ∧ job.midstates.length = job.k) :
    ∃ t, exec (.jobframe g job) s = .next t ∧ t.cfg = s.cfg ∧ t.jobidCtr = BitVec.ofNat 8 (4 * (m + 1) % 128) ∧
      t.txLog = s.txLog ++ [countedJobEntry s.cfg ((g, job), m)] := by
  have hid : BitVec.ofNat 8 (4 * (m + 1) % 128) =
      BitVec.ofNat 8 ((s.jobidCtr.toNat + s.cfg.jobidStep.toNat) % s.cfg.jobidMod) := by
    have h4 : (4 : Byte).toNat = 4 := rfl
    rw [hctr, hstep, hmod, BitVec.toNat_ofNat, h4]
    congr 1
    omega
  exact ⟨_, (jobframeAllocatesAndSends g job s (by omega)).1 hk.1 hk.2 _ hid, rfl, rfl, rfl⟩

/-- Job frames sent after `m` others carry on their ids. -/
theorem execAll_jobframes (jobs : List (Group × JobDesc)) (m : Nat) (s : State) (hstep : s.cfg.jobidStep = 4)
    (hmod : s.cfg.jobidMod = 128) (hctr : s.jobidCtr = BitVec.ofNat 8 (4 * m % 128))
    (hjobs : ∀ x ∈ jobs, (x.2.k = 1 ∨ x.2.k = 4) ∧ x.2.midstates.length = x.2.k) :
    ∃ t, execAll (jobs.map fun x => .jobframe x.1 x.2) s = some t ∧
      t.jobidCtr = BitVec.ofNat 8 (4 * (m + jobs.length) % 128) ∧
      t.txLog = s.txLog ++ (jobs.zipIdx m).map (countedJobEntry s.cfg) := by
  induction jobs generalizing m s with
  | nil => exact ⟨s, rfl, hctr, (List.append_nil _).symm⟩
  | cons x jobs ih =>
    obtain ⟨hx, hrest⟩ := List.forall_mem_cons.mp hjobs
    obtain ⟨u, hexec, hcfg, huctr, hulog⟩ := exec_jobframe_counted (g := x.1) hstep hmod hctr hx
    obtain ⟨t, ht, htctr, htlog⟩ := ih (m + 1) u (hcfg ▸ hstep) (hcfg ▸ hmod) huctr hrest
    refine ⟨t, (execAll_cons hexec _).trans ht, ?_, ?_⟩
    · rw [htctr, List.length_cons, Nat.add_right_comm, Nat.add_assoc]
    · rw [htlog, hulog, hcfg, List.append_assoc, List.zipIdx_cons]
      rfl

/-- Settles O30: by induction over the jobs, counting those already sent. -/
theorem jobIdsCycleThroughThirtyTwo : Obligations.JobIdsCycleThroughThirtyTwo := by
  intro s jobs hstep hmod hctr hjobs
  obtain ⟨t, ht, htctr, htlog⟩ := execAll_jobframes jobs 0 s hstep hmod hctr hjobs
  refine ⟨t, ht, ?_, htlog⟩
  rw [htctr, BitVec.toNat_ofNat, Nat.zero_add]
  omega

/-! ## INIT (R132) -/

/-- Settles O32: the checks of R132 in their order. -/
theorem initChecksBeforeItsProbe : Obligations.InitChecksBeforeItsProbe := by
  intro f n d s
  rw [exec, execInit, beginInit]
  refine ⟨fun hf => ?_, fun hf hn => ?_, fun hf h1 hn hs => ?_⟩
  · rw [if_pos hf, conclude_faultedWith]
  · rw [if_neg (not_lt.mpr hf), if_pos hn, conclude_faultedWith]
  · rw [if_neg (not_lt.mpr hf), if_neg (by omega), if_pos hs, conclude_returned]

end Sys2Proof

/-! # INIT up to its ramp (R132, R152) -/

namespace Sys2Proof

open Machine

/-! ## Rounds of an enumeration -/

theorem validCount_append (c : Cfg) (xs ys : List Answer) :
    validCount c (xs ++ ys) = validCount c xs + validCount c ys := by
  simp [validCount]

theorem countAfter_eq (c : Cfg) (a : Answer) (n : Nat) : countAfter c a n = n + validCount c [a] := by
  unfold validCount countAfter
  split <;> simp_all

/-- The state of an enumeration that waits as `p`, a function of its count, once it has taken `answers`; `rest` are still to
come. -/
def afterAnswers (s : State) (p : Nat → Progress) (answers rest : List Answer) (count : Nat) : State :=
  { s with
    rx := rest, op := p (count + validCount s.cfg answers)
    txLog := s.txLog ++ answers.map (receivedEntry s.cfg.family.chipidRespLen s.cfg.enumTimeoutMs) }

theorem afterAnswers_nil {s : State} {p : Nat → Progress} {count : Nat} (hop : s.op = p count) :
    afterAnswers s p [] s.rx count = s := by
  simp [afterAnswers, validCount, ← hop]

theorem afterAnswers_append (s : State) (p : Nat → Progress) (xs ys rest rest' : List Answer) (count : Nat) :
    afterAnswers (afterAnswers s p xs rest' count) p ys rest (count + validCount s.cfg xs) =
      afterAnswers s p (xs ++ ys) rest count := by
  simp [afterAnswers, validCount_append, Nat.add_assoc]

section

variable {p : Nat → Progress} (hp : p = .enumCount ∨ ∃ f n d, p = .initEnum f n d)
include hp

/-- The enumeration of an ENUM_COUNT or an INIT goes on after an answer with bytes. -/
theorem step_enum_more {s : State} {count : Nat} {a : Answer} {rest : List Answer} (hs : s.rampState ≠ .settling)
    (hop : s.op = p count) (hret : s.ret = none) (hrx : s.rx = a :: rest)
    (ha : 0 < answerRc s.cfg.family.chipidRespLen a) : step s = .next (afterAnswers s p [a] rest count) := by
  obtain rfl | ⟨f, n, d, rfl⟩ := hp
  · rw [step_enum hs (.inl ⟨count, hop⟩), enumStep_count_more hrx hop ha, answered_cons hrx, countAfter_eq]
    simp [afterAnswers, State.await, receivedEntry, hret]
  · rw [step_enum hs (.inr ⟨f, n, d, count, hop⟩), enumStep_init_more hrx hop ha, answered_cons hrx, countAfter_eq]
    simp [afterAnswers, State.await, receivedEntry, hret]

/-- While the transport delivers bytes, each step takes one answer. -/
theorem afterSteps_answers (k : Nat) (answers rest : List Answer) (s : State) (count : Nat) (hs : s.rampState ≠ .settling)
    (hop : s.op = p count) (hret : s.ret = none) (hrx : s.rx = answers ++ rest)
    (hpos : ∀ a ∈ answers, 0 < answerRc s.cfg.family.chipidRespLen a) :
    afterSteps (answers.length + k) s = afterSteps k (afterAnswers s p answers rest count) := by
  induction answers generalizing s count with
  | nil =>
    obtain rfl : s.rx = rest := hrx
    rw [afterAnswers_nil hop, List.length_nil, Nat.zero_add]
  | cons a answers ih =>
    obtain ⟨ha, hrest⟩ := List.forall_mem_cons.mp hpos
    have hstep := step_enum_more hp hs hop hret hrx ha
    have hnext := ih (afterAnswers s p [a] (answers ++ rest) count) _ hs rfl hret rfl hrest
    rw [List.length_cons, Nat.add_right_comm, afterSteps_succ _ hstep]
    exact hnext.trans (congrArg _ (afterAnswers_append ..))

end

/-! ## The end of INIT's enumeration -/

/-- INIT's enumeration ends at the first answer without bytes, with no chips or with INIT's tail. -/
theorem step_init_last {s : State} {f : Freq} {n : Nat} {d : Word32} {count : Nat} {a : Answer} {rest : List Answer}
    (hs : s.rampState ≠ .settling) (hop : s.op = .initEnum f n d count) (hrx : s.rx = a :: rest)
    (ha : answerRc s.cfg.family.chipidRespLen a ≤ 0) :
    step s = .next (if count = 0 then (answered s).reply .errNoChips
      else (answered s).conclude (initTail (answered s) f n d count)) := by
  rw [step_enum hs (.inr ⟨f, n, d, count, hop⟩), enumStep_init_last hrx hop ha]

/-- RAMP from rest returns at once or goes on to wait (R191, R196). -/
theorem beginRamp_at_rest {s : State} {f : Freq} (hf : 0 ≤ f) (hs : s.rampState = .idle) (p : Progress)
    (back : Status → Status) :
    beginRamp s f p back =
      if |s.rampCur - f| ≤ s.cfg.eps then .reply (back (.ok .none)) s else .await p (rampRequested s f) := by
  rw [← absDiff_eq]
  rcases beginRamp_cases s f p back with ⟨hneg, -⟩ | ⟨-, hbusy, -⟩ | ⟨-, -, he, h⟩ | ⟨-, -, he, h⟩
  · exact absurd hf (not_le.mpr hneg)
  · exact absurd hs hbusy
  · rw [h, if_pos he]
  · rw [h, if_neg (not_le.mpr he)]
    rfl

/-- INIT's tail from rest sends its frames, and returns the count or waits in its ramp (R132). -/
theorem conclude_initTail_at_rest {s : State} {f : Freq} (hf : 0 ≤ f) (hs : s.rampState = .idle) (n : Nat) (d : Word32)
    (c : Nat) :
    s.conclude (initTail s f n d c) =
      if |s.rampCur - f| ≤ s.cfg.eps then sentThen s (initFrames s.cfg n d) (.ok (.count c))
      else (rampRequested (sentThen s (initFrames s.cfg n d) (.ok .none)) f).await (.initRamp c (.ok .none)) := by
  have hq := quiet_sendAll s (initFrames s.cfg n d)
  rw [initTail_eq, beginRamp_at_rest hf (hq.rampState.trans hs), hq.rampCur, hq.cfg, sendAll_eq]
  split <;> rfl

theorem initFrames_wire {c : Cfg} (hw : c.wire = Config.wire) (n : Nat) (d : Word32) :
    initFrames c n d = [commandBytes 0x53 [0x00, 0x00]] ++
      (List.range n).map (fun i => commandBytes 0x40 [BitVec.ofNat 8 (i * (256 / n)), 0x00]) ++ c.familyInitFrames ++
      [commandBytes 0x51 (0x00 :: c.family.ticketMaskReg :: maskbytes (maskval c.maskRounding d))] ++ c.baudFrames := by
  rw [initFrames, maskFrame_wire hw, hw, inactiveFrame_wire, addrFrames_wire]
  rfl

/-- The state in which INIT waits for its first answer. -/
def initBegun (s : State) (f : Freq) (n : Nat) (d : Word32) : State :=
  (s.send (readFrame s.cfg.wire .all 0x00 0x00)).await (.initEnum f n d 0)

theorem exec_init {f : Freq} {n : Nat} {s : State} (hf : 0 ≤ f) (h1 : 1 ≤ n) (hn : n ≤ 256) (hs : s.rampState = .idle)
    (d : Word32) : exec (.init f n d) s = .next (initBegun s f n d) := by
  rw [exec, execInit, beginInit, if_neg (not_lt.mpr hf), if_neg (by omega), if_neg (not_not.mpr hs)]
  rfl

/-- The state of an INIT issued in `s` once its enumeration has taken `answers` and `last`, with `rest` still to come. -/
def initEnumerated (s : State) (f : Freq) (n : Nat) (d : Word32) (answers : List Answer) (last : Answer)
    (rest : List Answer) : State :=
  { s with
    rx := rest, op := .initEnum f n d (validCount s.cfg answers), ret := none
    txLog := s.txLog ++ [.send (readFrame s.cfg.wire .all 0x00 0x00)] ++
      (answers ++ [last]).map (receivedEntry s.cfg.family.chipidRespLen s.cfg.enumTimeoutMs) }

theorem answered_initBegun (s : State) (f : Freq) (n : Nat) (d : Word32) (answers : List Answer) (last : Answer)
    (rest : List Answer) :
    answered (afterAnswers (initBegun s f n d) (.initEnum f n d) answers (last :: rest) 0) =
      initEnumerated s f n d answers last rest := by
  rw [answered_cons rfl]
  simp [afterAnswers, initBegun, initEnumerated, receivedEntry]

/-- INIT enumerates until the first answer without bytes, and then finds no chips or goes on to its tail. -/
theorem afterSteps_initBegun {s : State} {answers rest : List Answer} {last : Answer} (hs : s.rampState ≠ .settling)
    (hrx : s.rx = answers ++ last :: rest) (hpos : ∀ a ∈ answers, 0 < answerRc s.cfg.family.chipidRespLen a)
    (hlast : answerRc s.cfg.family.chipidRespLen last ≤ 0) (f : Freq) (n : Nat) (d : Word32) :
    afterSteps (answers.length + 1) (initBegun s f n d) = some
      (if validCount s.cfg answers = 0 then (initEnumerated s f n d answers last rest).reply .errNoChips
      else (initEnumerated s f n d answers last rest).conclude
        (initTail (initEnumerated s f n d answers last rest) f n d (validCount s.cfg answers))) := by
  have hrun := afterSteps_answers (.inr ⟨f, n, d, rfl⟩) 1 answers (last :: rest) (initBegun s f n d) 0 hs rfl rfl hrx hpos
  have hend := step_init_last (s := afterAnswers (initBegun s f n d) (.initEnum f n d) answers (last :: rest) 0) hs rfl rfl
    hlast
  rw [hrun, afterSteps_succ 0 hend, answered_initBegun, Nat.zero_add]
  rfl

theorem initEnumerated_txLog {s : State} (hw : s.cfg.wire = Config.wire) (f : Freq) (n : Nat) (d : Word32)
    (answers : List Answer) (last : Answer) (rest : List Answer) :
    (initEnumerated s f n d answers last rest).txLog = s.txLog ++ [.send [0x55, 0xAA, 0x52, 0x05, 0x00, 0x00, 0x0A]] ++
      (answers ++ [last]).map (receivedEntry s.cfg.family.chipidRespLen s.cfg.enumTimeoutMs) := by
  rw [initEnumerated, hw, probe_bytes]

/-- Settles O33: by what the enumeration counted, and then by the distance of the target. -/
theorem initRunsItsSequence : Obligations.InitRunsItsSequence := by
  intro f n d s answers last rest hw hf h1 hn hs hrx hpos hlast
  have hu := afterSteps_initBegun (by rw [hs]; decide) hrx hpos hlast f n d
  rw [conclude_initTail_at_rest (s := initEnumerated s f n d answers last rest) hf hs] at hu
  refine ⟨_, _, exec_init hf h1 hn hs d, hu, ?_⟩
  rw [← initFrames_wire hw, ← initEnumerated_txLog hw f n d answers last rest]
  split
  next h0 => exact ⟨rfl, fun _ => rfl, fun h => absurd h0 h.ne'⟩
  next h0 =>
    refine ⟨?_, fun h => absurd h h0, fun _ => ?_⟩
    · split <;> rfl
    · split
      next he => exact ⟨rfl, rfl, rfl, rfl, rfl, rfl, fun _ => ⟨rfl, rfl, hs, rfl, rfl⟩, fun h => absurd he (not_le.mpr h)⟩
      next he => exact ⟨rfl, rfl, rfl, rfl, rfl, rfl, fun h => absurd h he, fun _ => ⟨rfl, rfl, rfl, rfl, rfl⟩⟩

end Sys2Proof

/-! # The response parser: CHECK_CHIPID and the rounds of an enumeration (R151, R152) -/

namespace Sys2Proof

open Machine

/-! ## Checking one response (R151) -/

theorem byteAt_of_lt {buf : Bytes} {i : Nat} (h : i < buf.length) : byteAt buf i = buf[i] :=
  (List.getElem_eq_getD _).symm

/-- A slice that the buffer covers holds no free byte (R45). -/
theorem slice_of_le {buf : Bytes} {j : Nat} (h : j ≤ buf.length) (i : Nat) : slice buf i j = (buf.take j).drop i := by
  apply List.ext_getElem
  · simp [slice, h]
  · intro k hk _
    have hlt : i + k < buf.length := by
      simp only [slice, List.length_map, List.length_range] at hk
      omega
    simp [slice, byteAt_of_lt hlt]

theorem hiByte_append_loByte (v : BitVec 16) : hiByte v ++ loByte v = v := by
  rw [hiByte, loByte, BitVec.extractLsb'_append_extractLsb'_eq_extractLsb' (show 8 = 0 + 8 from rfl)]
  exact BitVec.extractLsb'_eq_self

theorem append_eq_iff_hiByte_loByte (a b : Byte) (v : BitVec 16) : a ++ b = v ↔ a = hiByte v ∧ b = loByte v := by
  constructor
  · rintro rfl
    exact ⟨BitVec.extractLsb'_append_eq_left.symm, BitVec.extractLsb'_append_eq_right.symm⟩
  · rintro ⟨rfl, rfl⟩
    exact hiByte_append_loByte v

theorem respBytes_eq_iff (w : Wire) (p0 p1 : Byte) : [p0, p1] = respBytes w ↔ (p0, p1) = w.respPreamble := by
  simp [respBytes, Prod.ext_iff]

theorem exec_checkChipid (rc : Int) (buf : Bytes) (s : State) :
    exec (.checkChipid rc buf) s = .next (returned s (chipidVerdict s.cfg rc buf)) := rfl

theorem chipidVerdict_of_rc_ne {c : Cfg} {rc : Int} (h : rc ≠ c.family.chipidRespLen) (buf : Bytes) :
    chipidVerdict c rc buf = .noneLength rc := if_pos h

/-- The verdict on a buffer that holds the whole response. -/
theorem chipidVerdict_of_le {c : Cfg} {p0 p1 b2 b3 : Byte} {more : Bytes}
    (h : c.family.chipidRespLen ≤ (p0 :: p1 :: b2 :: b3 :: more).length) :
    chipidVerdict c c.family.chipidRespLen (p0 :: p1 :: b2 :: b3 :: more) =
      if (p0, p1) ≠ c.wire.respPreamble then .nonePreamble p0 p1
      else if b2 ++ b3 ≠ c.family.chipId then .noneChipid b2 b3
      else if crc5 c.wire (((p0 :: p1 :: b2 :: b3 :: more).take c.family.chipidRespLen).drop 2) ≠ 0 then .noneCrc
      else .ok .none := by
  have hpre : slice (p0 :: p1 :: b2 :: b3 :: more) 0 2 = [p0, p1] := rfl
  rw [chipidVerdict, if_neg (not_not.mpr rfl), hpre, slice_of_le h]
  simp only [ne_eq, respBytes_eq_iff, append_eq_iff_hiByte_loByte, not_and_or]
  rfl

/-- Settles O37: the length check, and then the verdict on the bytes. -/
theorem checkChipidChecksInOrder : Obligations.CheckChipidChecksInOrder := by
  intro rc buf s _
  refine ⟨fun hrc => ?_, ?_, _, exec_checkChipid rc buf s⟩
  · rw [exec_checkChipid, chipidVerdict_of_rc_ne hrc]
  · rintro p0 p1 b2 b3 more rfl rfl hlen
    rw [exec_checkChipid, chipidVerdict_of_le hlen]

/-! ## One round of an enumeration (R152, R229) -/

/-- An enumeration, of ENUM_COUNT or of INIT, is in progress. -/
def Enumerating (s : State) : Prop :=
  (∃ c, s.op = .enumCount c) ∨ ∃ f k d c, s.op = .initEnum f k d c

/-- The transport's next answer is `a`, listed in `rx` or free; then `rest` is still to come and `drawn` free answers have
been drawn (log 6). -/
def NextAnswerIs (s : State) (a : Answer) (rest : List Answer) (drawn : Nat) : Prop :=
  s.rx = a :: rest ∧ drawn = s.draws ∨ s.rx = [] ∧ rest = [] ∧ a = Config.freeAnswer s.draws ∧ drawn = s.draws + 1

/-- The transport answers before the settle timer fires, with the choices `more` still to come (log 8). -/
def TransportsTurn (s : State) (more : List Bool) : Prop :=
  s.rampState ≠ .settling ∧ more = s.timerFirst ∨ s.rampState = .settling ∧ s.timerFirst = false :: more

/-- The settle timer fires before the transport answers, with the choices `more` still to come (R250; log 8). -/
def TimersTurn (s : State) (more : List Bool) : Prop :=
  s.timerFirst = true :: more ∨ s.timerFirst = [] ∧ more = []

theorem NextAnswerIs.nextAnswer {s : State} {a : Answer} {rest : List Answer} {drawn : Nat}
    (h : NextAnswerIs s a rest drawn) : s.nextAnswer = a := by
  obtain ⟨hrx, -⟩ | ⟨hrx, -, ha, -⟩ := h
  · rw [State.nextAnswer, hrx]
  · rw [State.nextAnswer, hrx, ha]

theorem NextAnswerIs.dropAnswer {s : State} {a : Answer} {rest : List Answer} {drawn : Nat}
    (h : NextAnswerIs s a rest drawn) : s.dropAnswer = { s with rx := rest, draws := drawn } := by
  obtain ⟨hrx, hdrawn⟩ | ⟨hrx, hrest, -, hdrawn⟩ := h
  · rw [State.dropAnswer, hrx, hdrawn]
  · rw [State.dropAnswer, hrx, hrest, hdrawn]

theorem NextAnswerIs.answered {s : State} {a : Answer} {rest : List Answer} {drawn : Nat}
    (h : NextAnswerIs s a rest drawn) :
    answered s = { s with
      rx := rest, draws := drawn
      txLog := s.txLog ++ [receivedEntry s.cfg.family.chipidRespLen s.cfg.enumTimeoutMs a] } := by
  rw [Machine.answered, State.receive, h.nextAnswer, h.dropAnswer]
  rfl

/-- A round of ENUM_COUNT, by the code of the next answer. -/
theorem enumStep_count {s : State} {c : Nat} (hop : s.op = .enumCount c) :
    enumStep s = if answerRc s.cfg.family.chipidRespLen s.nextAnswer ≤ 0 then (answered s).reply (.ok (.count c))
      else (answered s).await (.enumCount (c + validCount s.cfg [s.nextAnswer])) := by
  rw [← countAfter_eq, enumStep, hop]
  rfl

/-- A round of INIT's enumeration, by the code of the next answer and the count so far. -/
theorem enumStep_init {s : State} {f : Freq} {k : Nat} {d : Word32} {c : Nat} (hop : s.op = .initEnum f k d c) :
    enumStep s = if answerRc s.cfg.family.chipidRespLen s.nextAnswer ≤ 0 then
        if c = 0 then (answered s).reply .errNoChips else (answered s).conclude (initTail (answered s) f k d c)
      else (answered s).await (.initEnum f k d (c + validCount s.cfg [s.nextAnswer])) := by
  rw [← countAfter_eq, enumStep, hop]
  rfl

theorem step_awaitAnswer {s : State} (h : Enumerating s) : step s = awaitAnswer s := by
  obtain ⟨c, hop⟩ | ⟨f, k, d, c, hop⟩ := h <;> rw [step_progress (by rw [hop]; nofun), progress, hop]

theorem step_transportsTurn {s : State} {more : List Bool} (h : Enumerating s) (ht : TransportsTurn s more) :
    step s = .next (enumStep { s with timerFirst := more }) := by
  obtain ⟨hs, rfl⟩ | ⟨hs, hmore⟩ := ht
  · exact step_enum hs h
  · have hdue : settleEnabled s ≠ false := by simp [settleEnabled, hs]
    rw [step_awaitAnswer h, awaitAnswer, if_neg hdue, hmore]

theorem step_timersTurn {s : State} {more : List Bool} (h : Enumerating s) (hs : s.rampState = .settling)
    (ht : TimersTurn s more) : step s = exec .rampSettled { s with timerFirst := more } := by
  have hdue : settleEnabled s ≠ false := by simp [settleEnabled, hs]
  rw [step_awaitAnswer h, awaitAnswer, if_neg hdue]
  obtain hmore | ⟨hmore, hnil⟩ := ht
  · rw [hmore]
  · simp only [hmore]
    rw [hnil, ← hmore]

theorem settledRamp_eq (s : State) :
    settledRamp s = { s with
      txLog := s.txLog ++ [.settle]
      rampState := if s.rampCur = s.rampTgt then .idle else .stepping
      rampDir := if s.rampCur = s.rampTgt then .none else s.rampDir } := by
  unfold settledRamp
  split <;> rfl

/-- No ramp event returns to the host from an enumeration. -/
theorem Enumerating.resume {s : State} (h : Enumerating s) : s.resume = s := by
  obtain ⟨c, hop⟩ | ⟨f, k, d, c, hop⟩ := h <;> rw [State.resume, hop]

/-- Settles O34: on the transport's turn by the operation and the code of the answer, and on the timer's by R194. -/
theorem enumerationTakesOneAnswerAStep : Obligations.EnumerationTakesOneAnswerAStep := by
  constructor
  · rintro s a rest drawn n rc more log hnext hturn rfl rfl rfl
    have hanswer : NextAnswerIs { s with timerFirst := more } a rest drawn := hnext
    refine ⟨fun c hop => ?_, fun f k d c hop hrc => ?_, fun f k d hop hrc => ?_⟩
    · rw [step_transportsTurn (.inl ⟨c, hop⟩) hturn, enumStep_count (s := { s with timerFirst := more }) hop,
        hanswer.nextAnswer, hanswer.answered]
      split <;> rfl
    · rw [step_transportsTurn (.inr ⟨f, k, d, c, hop⟩) hturn, enumStep_init (s := { s with timerFirst := more }) hop,
        hanswer.nextAnswer, hanswer.answered, if_neg (not_le.mpr hrc)]
      rfl
    · rw [step_transportsTurn (.inr ⟨f, k, d, 0, hop⟩) hturn, enumStep_init (s := { s with timerFirst := more }) hop,
        hanswer.nextAnswer, hanswer.answered, if_pos hrc, if_pos rfl]
      rfl
  · intro s more henum hs hturn
    have hstays : Enumerating (settledRamp { s with timerFirst := more }) := by rwa [settledRamp_eq]
    rw [step_timersTurn henum hs hturn, exec_rampSettled (s := { s with timerFirst := more }) hs,
      hstays.resume, settledRamp_eq]

/-! ## A whole ENUM_COUNT (R152) -/

theorem exec_enumCount (s : State) : exec .enumCount s = .next (s.await (.enumCount 0)) := rfl

/-- ENUM_COUNT returns its count at the first answer without bytes. -/
theorem step_count_last {s : State} {count : Nat} {a : Answer} {rest : List Answer} (hs : s.rampState ≠ .settling)
    (hop : s.op = .enumCount count) (hrx : s.rx = a :: rest) (ha : answerRc s.cfg.family.chipidRespLen a ≤ 0) :
    step s = .next ((answered s).reply (.ok (.count count))) := by
  rw [step_enum hs (.inl ⟨count, hop⟩), enumStep_count_last hrx hop ha]

/-- Settles O35: the answers with bytes are taken one a step, and the last ends the count. -/
theorem enumCountCountsValidResponses : Obligations.EnumCountCountsValidResponses := by
  intro s answers last rest hs hrx hpos hlast
  have hrun := afterSteps_answers (.inl rfl) 1 answers (last :: rest) (s.await (.enumCount 0)) 0 hs rfl rfl hrx hpos
  have hend := step_count_last (s := afterAnswers (s.await (.enumCount 0)) .enumCount answers (last :: rest) 0) hs rfl rfl
    hlast
  refine ⟨_, exec_enumCount s, ?_⟩
  rw [hrun, afterSteps_succ 0 hend, answered_cons rfl]
  simp [afterSteps, afterAnswers, State.reply, State.await, receivedEntry]

end Sys2Proof

/-! # The PLL: the lookup, its binary search and SETFREQ (43_pll.md) -/

namespace Sys2Proof

open Machine

/-! ## The lookup (R34, R170) -/

theorem tableWf_pairwise {table : List PllEntry} (h : tableWf table = true) :
    table.Pairwise fun a b => a.freq < b.freq :=
  List.pairwise_map.mp ((tableWf_iff table).mp h).1

/-- The entries of a table at or below `f`, among which R170 takes the last. -/
def atOrBelow (table : List PllEntry) (f : Freq) : List PllEntry :=
  table.filter fun e => decide (e.freq ≤ f)

@[simp] theorem mem_atOrBelow {table : List PllEntry} {f : Freq} {e : PllEntry} :
    e ∈ atOrBelow table f ↔ e ∈ table ∧ e.freq ≤ f := by
  simp [atOrBelow]

theorem atOrBelow_eq_nil_iff {table : List PllEntry} {f : Freq} :
    atOrBelow table f = [] ↔ ∀ e ∈ table, f < e.freq := by
  simp [atOrBelow]

theorem atOrBelow_eq_self_iff {table : List PllEntry} {f : Freq} :
    atOrBelow table f = table ↔ ∀ e ∈ table, e.freq ≤ f := by
  simp [atOrBelow]

/-- R170's test of the first entry is redundant: in an ascending table the whole table is then above the target. -/
theorem pllLookup_eq_getLast? {table : List PllEntry} (h : table.Pairwise fun a b => a.freq < b.freq) (f : Freq) :
    pllLookup table f = (atOrBelow table f).getLast? := by
  cases table with
  | nil => rfl
  | cons e0 rest =>
    by_cases hlt : f < e0.freq
    · have habove : ∀ e ∈ e0 :: rest, f < e.freq :=
        List.forall_mem_cons.mpr ⟨hlt, fun e he => hlt.trans (List.rel_of_pairwise_cons h he)⟩
      rw [atOrBelow_eq_nil_iff.mpr habove]
      exact if_pos hlt
    · exact if_neg hlt

theorem pllLookup_eq_none {table : List PllEntry} {f : Freq} (h : table.Pairwise fun a b => a.freq < b.freq)
    (habove : ∀ e ∈ table, f < e.freq) : pllLookup table f = none := by
  rw [pllLookup_eq_getLast? h, atOrBelow_eq_nil_iff.mpr habove, List.getLast?_nil]

/-- The last entry at or below the target is the greatest such entry. -/
theorem pllLookup_eq_greatest {table : List PllEntry} {f : Freq} (h : table.Pairwise fun a b => a.freq < b.freq)
    (hbelow : ∃ e ∈ table, e.freq ≤ f) :
    ∃ e ∈ table, e.freq ≤ f ∧ (∀ e' ∈ table, e'.freq ≤ f → e'.freq ≤ e.freq) ∧ pllLookup table f = some e := by
  obtain ⟨e0, he0, hle0⟩ := hbelow
  have hne : atOrBelow table f ≠ [] := List.ne_nil_of_mem (mem_atOrBelow.mpr ⟨he0, hle0⟩)
  have hasc : (atOrBelow table f).Pairwise fun a b => a.freq ≤ b.freq := (h.imp le_of_lt).filter _
  obtain ⟨hmem, hle⟩ := mem_atOrBelow.mp (List.getLast_mem hne)
  refine ⟨_, hmem, hle, fun e' he' hle' => ?_, ?_⟩
  · exact hasc.rel_getLast_of_rel_getLast_getLast (mem_atOrBelow.mpr ⟨he', hle'⟩) le_rfl
  · rw [pllLookup_eq_getLast? h, List.getLast?_eq_some_getLast hne]

/-- Settles O38: by the sign of the target, and then by whether the table has an entry at or below it. -/
theorem pllLookupReturnsTheGreatestBelow : Obligations.PllLookupReturnsTheGreatestBelow := by
  intro f s hwf
  have hasc := tableWf_pairwise hwf
  rw [exec, execPllLookup, lookupFreq]
  refine ⟨fun hf => ?_, fun hf habove => ?_, fun hf hbelow => ?_⟩
  · rw [if_pos hf, conclude_faultedWith]
  · rw [if_neg (not_lt.mpr hf), pllLookup_eq_none hasc habove]
    rfl
  · obtain ⟨e, hmem, hle, hgreatest, hlookup⟩ := pllLookup_eq_greatest hasc hbelow
    refine ⟨e, hmem, hle, hgreatest, ?_⟩
    rw [if_neg (not_lt.mpr hf), hlookup]
    rfl

/-! ## The binary search (R171) -/

/-- The loop's invariant: every entry before `lo` is at or below the target, and every entry from `stop` on is above it. -/
def Brackets (table : List PllEntry) (f : Freq) (lo stop : Nat) : Prop :=
  (∀ e ∈ table.take lo, e.freq ≤ f) ∧ ∀ e ∈ table.drop stop, f < e.freq

theorem brackets_whole (table : List PllEntry) (f : Freq) : Brackets table f 0 table.length := by
  simp [Brackets]

/-- Once nothing is left between the bounds, the entries before them are the entries at or below the target. -/
theorem Brackets.take_eq {table : List PllEntry} {f : Freq} {lo : Nat} (h : Brackets table f lo lo) :
    table.take lo = atOrBelow table f := by
  obtain ⟨hbelow, habove⟩ := h
  calc table.take lo = atOrBelow (table.take lo) f ++ atOrBelow (table.drop lo) f := by
        rw [atOrBelow_eq_self_iff.mpr hbelow, atOrBelow_eq_nil_iff.mpr habove, List.append_nil]
    _ = atOrBelow (table.take lo ++ table.drop lo) f := (List.filter_append _ _).symm
    _ = atOrBelow table f := by rw [List.take_append_drop]

section

variable {table : List PllEntry} (h : table.Pairwise fun a b => a.freq < b.freq) {f : Freq} {lo stop mid : Nat}
  (hb : Brackets table f lo stop) (hmid : mid < table.length)
include h hb

theorem Brackets.raise_lo (hle : table[mid].freq ≤ f) : Brackets table f (mid + 1) stop := by
  refine ⟨fun e he => ?_, hb.2⟩
  obtain ⟨i, hi, rfl⟩ := List.mem_take_iff_getElem.mp he
  obtain hlt | rfl := Nat.lt_or_eq_of_le (show i ≤ mid by omega)
  · exact (List.pairwise_iff_getElem.mp h i mid (by omega) hmid hlt).le.trans hle
  · exact hle

theorem Brackets.lower_stop (hlt : f < table[mid].freq) : Brackets table f lo mid := by
  refine ⟨hb.1, fun e he => ?_⟩
  obtain ⟨i, hi, rfl⟩ := List.mem_drop_iff_getElem.mp he
  obtain hpos | rfl := Nat.lt_or_eq_of_le (Nat.zero_le i)
  · exact hlt.trans (List.pairwise_iff_getElem.mp h mid (mid + i) hmid (by omega) (by omega))
  · exact hlt

end

/-- The loop's result, with the best entry so far as the last one before `lo`. -/
theorem pllSearchFrom_eq_getLast? {table : List PllEntry} (h : table.Pairwise fun a b => a.freq < b.freq) {f : Freq}
    (fuel : Nat) {lo stop : Nat} (hb : Brackets table f lo stop) (hlo : lo ≤ stop) (hstop : stop ≤ table.length)
    (hfuel : stop - lo ≤ fuel) :
    pllSearchFrom table f fuel lo stop (table.take lo).getLast? = (atOrBelow table f).getLast? := by
  induction fuel generalizing lo stop with
  | zero =>
    obtain rfl : lo = stop := by omega
    rw [pllSearchFrom, hb.take_eq]
  | succ fuel ih =>
    rw [pllSearchFrom]
    split
    next hlt =>
      have hmid : (lo + (stop - 1)) / 2 < table.length := by omega
      generalize hm : (lo + (stop - 1)) / 2 = mid at hmid
      simp only [tableRead, List.getElem?_eq_getElem hmid]
      split
      next hle =>
        have hbest : some table[mid] = (table.take (mid + 1)).getLast? := by
          rw [← List.take_append_getElem hmid, List.getLast?_concat]
        rw [hbest]
        exact ih (hb.raise_lo h hmid hle) (by omega) hstop (by omega)
      next hgt => exact ih (hb.lower_stop h hmid (not_le.mp hgt)) (by omega) (by omega) (by omega)
    next hge =>
      obtain rfl : lo = stop := by omega
      rw [hb.take_eq]

/-- Settles O39: the lookup and the search both return the last entry at or below the target. -/
theorem binarySearchAgreesWithLookup : Obligations.BinarySearchAgreesWithLookup := by
  intro table f hwf
  have hasc := tableWf_pairwise hwf
  calc pllSearch table f = (atOrBelow table f).getLast? :=
        pllSearchFrom_eq_getLast? hasc table.length (brackets_whole table f) (Nat.zero_le _) le_rfl le_rfl
    _ = pllLookup table f := (pllLookup_eq_getLast? hasc f).symm

/-! ## SETFREQ (R172) -/

/-- Settles O40: the checks of R172 in their order, and the bytes of the PLL write. -/
theorem setfreqChecksThenWrites : Obligations.SetfreqChecksThenWrites := by
  intro f s
  rw [exec, execSetfreq, setFrequency]
  refine ⟨fun hreg => ?_, fun hreg hf => ?_, fun hreg hf hnone => ?_, fun e hw hreg hf hsome => ?_⟩
  · rw [if_pos hreg, conclude_returned]
  · rw [if_neg (by simp [hreg]), if_pos hf, conclude_faultedWith]
  · rw [if_neg (by simp [hreg]), if_neg (not_lt.mpr hf), hnone]
    rfl
  · rw [if_neg (by simp [hreg]), if_neg (not_lt.mpr hf), hsome]
    simp only [freqHazard_iff, true_and]
    split_ifs
    · rw [conclude_faultedWith]
    · rw [conclude_send, freqFrame_wire hw]
      rfl

end Sys2Proof

/-! # The frequency ramp: its next value, its events, and how it ends (44_ramp.md) -/

namespace Sys2Proof

open Machine

/-! ## Requests (R191) -/

/-- Settles O41: the checks of R191 in their order. -/
theorem rampReqStartsTheRamp : Obligations.RampReqStartsTheRamp := by
  intro f s
  rw [exec, execRampReq, requestRamp, absDiff_eq]
  split_ifs
  · rw [conclude_faultedWith]
  · rw [conclude_returned]
  · rw [conclude_returned]
  · rfl
  · rfl

/-! ## The next value (R192) -/

section

variable {step cur : Freq} (hstep : 0 < step)
include hstep

theorem rampNext_up_of_aligned (h : ∃ k : Int, cur = k * step) (tgt : Freq) :
    rampNext step cur tgt true 1 = min (cur + step) tgt := by
  simp [rampNext, freqMin_eq, (aligned_iff cur step hstep.ne').mpr h]

theorem rampNext_down_of_aligned (h : ∃ k : Int, cur = k * step) (tgt : Freq) :
    rampNext step cur tgt false (-1) = max (cur - step) tgt := by
  simp [rampNext, freqMax_eq, (aligned_iff cur step hstep.ne').mpr h, sub_eq_add_neg]

theorem rampNext_up_of_unaligned (h : ¬∃ k : Int, cur = k * step) (tgt : Freq) :
    rampNext step cur tgt true 1 = min ((⌈cur / step⌉ : Freq) * step) tgt := by
  have hna := mt (aligned_iff cur step hstep.ne').mp h
  simp [rampNext, freqMin_eq, hna, freqDiv, hstep.ne', rat_ceil_eq]

theorem rampNext_down_of_unaligned (h : ¬∃ k : Int, cur = k * step) (tgt : Freq) :
    rampNext step cur tgt false (-1) = max ((⌊cur / step⌋ : Freq) * step) tgt := by
  have hna := mt (aligned_iff cur step hstep.ne').mp h
  simp [rampNext, freqMax_eq, hna, freqDiv, hstep.ne', rat_floor_eq]

/-- A ramp down is a ramp up of the negated frequencies. -/
theorem rampNext_down_eq_neg_up (cur tgt : Freq) :
    rampNext step cur tgt false (-1) = -rampNext step (-cur) (-tgt) true 1 := by
  by_cases h : ∃ k : Int, cur = k * step
  · have hneg : ∃ k : Int, -cur = k * step := by
      obtain ⟨k, rfl⟩ := h
      exact ⟨-k, by push_cast; ring⟩
    rw [rampNext_down_of_aligned hstep h, rampNext_up_of_aligned hstep hneg, ← max_neg_neg]
    congr 1 <;> ring
  · have hneg : ¬∃ k : Int, -cur = k * step := by
      rintro ⟨k, hk⟩
      exact h ⟨-k, by push_cast; linarith⟩
    rw [rampNext_down_of_unaligned hstep h, rampNext_up_of_unaligned hstep hneg, ← max_neg_neg, neg_div, Int.ceil_neg]
    push_cast
    congr 1 <;> ring

/-- Upwards, the value before the clamp is the next step boundary above. -/
theorem rampNext_up_eq_min (cur tgt : Freq) : ∃ k : Int, cur < k * step ∧ k * step ≤ cur + step ∧
    rampNext step cur tgt true 1 = min (k * step) tgt := by
  by_cases h : ∃ k : Int, cur = k * step
  · have heq := rampNext_up_of_aligned hstep h tgt
    obtain ⟨k, rfl⟩ := h
    have hsucc : (k * step + step : Freq) = (k + 1 : Int) * step := by push_cast; ring
    exact ⟨k + 1, by linarith, hsucc.ge, by rw [heq, hsucc]⟩
  · refine ⟨⌈cur / step⌉, ?_, ?_, rampNext_up_of_unaligned hstep h tgt⟩
    · have hle : cur ≤ ⌈cur / step⌉ * step := (div_le_iff₀ hstep).mp (Int.le_ceil _)
      exact lt_of_le_of_ne hle fun heq => h ⟨_, heq⟩
    · have hlt : (⌈cur / step⌉ : Freq) < cur / step + 1 := Int.ceil_lt_add_one _
      calc (⌈cur / step⌉ : Freq) * step ≤ (cur / step + 1) * step := mul_le_mul_of_nonneg_right hlt.le hstep.le
        _ = cur + step := by field_simp

theorem rampNext_up_bounds {tgt : Freq} (h : cur < tgt) :
    cur < rampNext step cur tgt true 1 ∧ rampNext step cur tgt true 1 ≤ tgt ∧
      rampNext step cur tgt true 1 - cur ≤ step ∧
      (rampNext step cur tgt true 1 = tgt ∨ ∃ k : Int, rampNext step cur tgt true 1 = k * step) := by
  obtain ⟨k, hlt, hle, heq⟩ := rampNext_up_eq_min hstep cur tgt
  rw [heq]
  refine ⟨lt_min hlt h, min_le_right _ _, ?_, ?_⟩
  · linarith [min_le_left (k * step) tgt]
  · exact (min_choice (k * step) tgt).symm.imp_right fun hk => ⟨k, hk⟩

theorem rampNext_down_bounds {tgt : Freq} (h : tgt < cur) :
    tgt ≤ rampNext step cur tgt false (-1) ∧ rampNext step cur tgt false (-1) < cur ∧
      cur - rampNext step cur tgt false (-1) ≤ step ∧
      (rampNext step cur tgt false (-1) = tgt ∨ ∃ k : Int, rampNext step cur tgt false (-1) = k * step) := by
  obtain ⟨hgt, hle, hdist, hend⟩ := rampNext_up_bounds hstep (neg_lt_neg h)
  rw [rampNext_down_eq_neg_up hstep]
  refine ⟨by linarith, by linarith, by linarith, ?_⟩
  rcases hend with htgt | ⟨k, hk⟩
  · exact .inl (by rw [htgt, neg_neg])
  · exact .inr ⟨-k, by rw [hk]; push_cast; ring⟩

end

/-- Settles O42: upwards from the next boundary above, and downwards by negation. -/
theorem rampNextStaysWithinOneStep : Obligations.RampNextStaysWithinOneStep := fun _ _ tgt hstep =>
  ⟨fun h => ⟨rampNext_up_of_aligned hstep h tgt, rampNext_down_of_aligned hstep h tgt⟩,
    fun h => ⟨rampNext_up_of_unaligned hstep h tgt, rampNext_down_of_unaligned hstep h tgt⟩,
    rampNext_up_bounds hstep, rampNext_down_bounds hstep⟩

/-! ## How many writes a ramp needs (R195) -/

/-- The step intervals that lie, wholly or in part, between two frequencies: a bound on the writes from one to the other. -/
def strides (step x y : Freq) : Int :=
  ⌈max x y / step⌉ - ⌊min x y / step⌋

section

variable {step : Freq} (hstep : 0 < step)
include hstep

theorem strides_pos {x y : Freq} (h : x ≠ y) : 0 < strides step x y := by
  have hlt : min x y / step < max x y / step := (div_lt_div_iff_of_pos_right hstep).mpr (min_lt_max.mpr h)
  have hfloor : ((⌊min x y / step⌋ : Int) : Freq) < ⌈max x y / step⌉ :=
    (Int.floor_le _).trans_lt (hlt.trans_le (Int.le_ceil _))
  exact sub_pos.mpr (by exact_mod_cast hfloor)

/-- A write upwards to a step boundary leaves fewer step intervals to the target. -/
theorem strides_lt_of_up {cur nxt tgt : Freq} (hlt : cur < nxt) (hle : nxt ≤ tgt) (hk : ∃ k : Int, nxt = k * step) :
    strides step nxt tgt < strides step cur tgt := by
  obtain ⟨k, rfl⟩ := hk
  have hfloor : ⌊cur / step⌋ < k := Int.floor_lt.mpr ((div_lt_iff₀ hstep).mpr hlt)
  rw [strides, strides, max_eq_right hle, min_eq_left hle, max_eq_right (hlt.le.trans hle),
    min_eq_left (hlt.le.trans hle), mul_div_cancel_right₀ _ hstep.ne', Int.floor_intCast]
  omega

/-- A write downwards to a step boundary leaves fewer step intervals to the target. -/
theorem strides_lt_of_down {cur nxt tgt : Freq} (hlt : nxt < cur) (hle : tgt ≤ nxt) (hk : ∃ k : Int, nxt = k * step) :
    strides step nxt tgt < strides step cur tgt := by
  obtain ⟨k, rfl⟩ := hk
  have hceil : k < ⌈cur / step⌉ := Int.lt_ceil.mpr ((lt_div_iff₀ hstep).mpr hlt)
  rw [strides, strides, max_eq_left hle, min_eq_right hle, max_eq_left (hle.trans hlt.le),
    min_eq_right (hle.trans hlt.le), mul_div_cancel_right₀ _ hstep.ne', Int.ceil_intCast]
  omega

end

theorem strides_le (step x y : Freq) : strides step x y ≤ ⌈|y - x| / step⌉ + 1 := by
  have hmax : max x y / step = min x y / step + |y - x| / step := by
    rw [← add_div, ← max_sub_min_eq_abs]
    congr 1
    ring
  have hsum : ⌈max x y / step⌉ ≤ ⌈min x y / step⌉ + ⌈|y - x| / step⌉ := hmax ▸ Int.ceil_add_le _ _
  have hround : ⌈min x y / step⌉ ≤ ⌊min x y / step⌋ + 1 := Int.ceil_le_floor_add_one _
  rw [strides]
  omega

/-! ## The ramp's events (R193, R194) -/

/-- No host operation is in progress, but one that waits for the ramp (R229). -/
def WaitsForRamp (s : State) : Prop :=
  s.op = .idle ∨ (∃ st, s.op = .ramp st) ∨ ∃ n st, s.op = .initRamp n st

/-- What the host has been returned once the ramp has ended with `st`, for what waited for it (R193, R196, R132). -/
def rampReturn (st : Status) (ret : Option Status) : Progress → Option Status
  | .ramp _ => some st
  | .initRamp n _ => some (.ok (.count n))
  | .idle => ret
  | .enumCount _ => ret
  | .initEnum _ _ _ _ => ret

/-- The state in which a ramp that ended with `st` leaves `s`: at rest at `cur`, and nothing waits for it any more. -/
def rested (s : State) (cur : Freq) (st : Status) (log : List TxEvent) : State :=
  { s with
    rampState := .idle, rampCur := cur, rampTgt := cur, rampDir := .none
    txLog := log, op := .idle, ret := rampReturn st s.ret s.op }

/-- The state of a ramp on its way: only RAMP_CUR, RAMP_STATE and TX_LOG differ from `s`. -/
def underway (s : State) (cur : Freq) (rs : RampState) (log : List TxEvent) : State :=
  { s with rampCur := cur, rampState := rs, txLog := log }

/-- The sequencer's write finds no register, or no entry of the table (R172). -/
def WriteFails (s : State) : Prop :=
  s.cfg.family.hasFreqReg = false ∨ pllLookup s.cfg.pllTable s.rampNextValue = none

theorem exec_rampStep_of_disabled {s : State} (h : stepEnabled s = false) : exec .rampStep s = .next s := by
  rw [exec, execRampStep, if_neg (by simp [h])]

theorem exec_rampStep {s : State} (hs : s.rampState = .stepping) (hw : WaitsForRamp s) :
    exec .rampStep s = .next (sequencerStep s) := by
  have he : stepEnabled s = true := by
    rcases hw with hop | ⟨st, hop⟩ | ⟨n, st, hop⟩ <;> simp [stepEnabled, hs, hop]
  rw [exec, execRampStep, if_pos he]

theorem exec_rampSettled_of_disabled {s : State} (h : s.rampState ≠ .settling) : exec .rampSettled s = .next s := by
  rw [exec, execRampSettled, if_neg (by simpa [settleEnabled] using h)]

/-- Settles O45: outside STEPPING, and in an enumeration, RAMP_STEP is not enabled; outside SETTLING, RAMP_SETTLED is not. -/
theorem disabledEventsChangeNothing : Obligations.DisabledEventsChangeNothing := by
  refine fun s => ⟨fun hs => ?_, fun hop => ?_, exec_rampSettled_of_disabled⟩
  · exact exec_rampStep_of_disabled (by simp [stepEnabled, hs])
  · refine exec_rampStep_of_disabled ?_
    rcases hop with ⟨n, hop⟩ | ⟨f, n, d, c, hop⟩ <;> simp [stepEnabled, hop]

theorem setFrequency_of_entry {s : State} {f : Freq} {e : PllEntry} (hf : 0 ≤ f) (hreg : s.cfg.family.hasFreqReg = true)
    (he : pllLookup s.cfg.pllTable f = some e) :
    setFrequency .ramp s f = .reply (.ok (.freq e.freq)) (s.send (freqFrame s.cfg e)) := by
  simp [setFrequency, hreg, not_lt.mpr hf, he]

/-- A failed write returns one of two statuses that are not OK, and writes nothing. -/
theorem setFrequency_of_writeFails {s : State} (hf : 0 ≤ s.rampNextValue) (h : WriteFails s) :
    ∃ st, isOk st = false ∧ setFrequency .ramp s s.rampNextValue = .reply st s := by
  by_cases hreg : s.cfg.family.hasFreqReg = false
  · exact ⟨.errUnsupported, rfl, by rw [setFrequency, if_pos hreg]⟩
  · have hnone := h.resolve_left hreg
    exact ⟨.errPllRange, rfl, by rw [setFrequency, if_neg hreg, if_neg (not_lt.mpr hf), hnone]⟩

theorem sequencerStep_of_entry {s : State} {e : PllEntry} (hf : 0 ≤ s.rampNextValue)
    (hreg : s.cfg.family.hasFreqReg = true) (he : pllLookup s.cfg.pllTable s.rampNextValue = some e) :
    sequencerStep s = written (s.send (freqFrame s.cfg e)) := by
  simp only [sequencerStep, setFrequency_of_entry hf hreg he]
  exact if_neg (by simp [isOk])

theorem sequencerStep_of_writeFails {s : State} (hf : 0 ≤ s.rampNextValue) (h : WriteFails s) :
    sequencerStep s = if s.cfg.rampOnFail = .abort then (abortedRamp s).resume else written s := by
  obtain ⟨st, hst, hset⟩ := setFrequency_of_writeFails hf h
  simp only [sequencerStep, hset, hst, true_and]
  rfl

theorem resume_abortedRamp {s : State} (hw : WaitsForRamp s) :
    (abortedRamp s).resume = rested s s.rampCur .errRampAborted s.txLog := by
  rcases hw with hop | ⟨st, hop⟩ | ⟨n, st, hop⟩ <;>
    simp [State.resume, abortedRamp, setRampStatus, rested, rampReturn, State.reply, hop]

/-- While the ramp goes on, nothing that waits for it returns. -/
theorem resume_of_busy {s : State} (h : s.rampState ≠ .idle) : s.resume = s :=
  (resume_cases s).resolve_right fun ⟨hidle, _⟩ => h hidle

theorem rampNextValue_of_up {s : State} (h : s.rampDir = .up) :
    s.rampNextValue = rampNext s.cfg.rampStep s.rampCur s.rampTgt true 1 := by
  rw [State.rampNextValue, h]
  rfl

theorem rampNextValue_of_down {s : State} (h : s.rampDir = .down) :
    s.rampNextValue = rampNext s.cfg.rampStep s.rampCur s.rampTgt false (-1) := by
  rw [State.rampNextValue, h]
  rfl

/-- In a state of the invariant, the sequencer's next value is a frequency (R12, R192). -/
theorem rampNextValue_nonneg {s : State} (hc : cfgWf s.cfg = true) (hi : Inv s) (hs : s.rampState = .stepping) :
    0 ≤ s.rampNextValue := by
  obtain ⟨-, -, -, -, -, -, -, -, hstep, -⟩ := cfgWf_facts hc
  obtain ⟨-, -, hcur, -⟩ := ((inv_iff s).mp hi).1.written hstep hs
  exact hcur

/-- Settles O43: by whether the write finds its entry, and then by RAMP_ON_FAIL. -/
theorem rampStepWritesTheNextValue : Obligations.RampStepWritesTheNextValue := by
  rintro s nxt hc hi hs hw rfl
  have hf := rampNextValue_nonneg hc hi hs
  rw [exec_rampStep hs hw]
  refine ⟨fun e hreg he => ?_, fun hfail => ?_⟩
  · rw [sequencerStep_of_entry hf hreg he]
    rfl
  · rw [sequencerStep_of_writeFails hf hfail]
    refine ⟨fun hcont => ?_, fun habort => ?_⟩
    · rw [if_neg (by simp [hcont])]
      rfl
    · rw [if_pos habort, resume_abortedRamp hw]
      refine ⟨_, rfl, ?_⟩
      rcases hw with hop | ⟨st, hop⟩ | ⟨n, st, hop⟩ <;> simp [rested, rampReturn, hop]

/-- Settles O44: by whether the ramp is at its target, and there by what waits for it. -/
theorem rampSettledEndsOrContinues : Obligations.RampSettledEndsOrContinues := by
  intro s hs
  rw [exec_rampSettled hs, settledRamp_eq]
  refine ⟨fun hne => ?_, fun heq => ?_⟩
  · rw [if_neg hne, if_neg hne, resume_of_busy (by nofun)]
  · rw [if_pos heq, if_pos heq]
    cases s.op with
    | idle | enumCount | initEnum => simp [State.resume]
    | ramp | initRamp => simp [State.resume, State.reply]

/-! ## How a ramp goes on and ends (R193, R195, R196) -/

/-- A state of the invariant in which the next event is the ramp's (logs 8 and 19). -/
structure Ramping (s : State) : Prop where
  wf : cfgWf s.cfg = true
  inv : Inv s
  waits : WaitsForRamp s
  port : s.op = .idle → s.port = []

/-- How the ramp of `s` can end: at its target, or under `abort` short of it, where a write fails. -/
inductive RampEnd (s u : State) : Prop where
  | atTarget (log : List TxEvent) (hu : u = rested s s.rampTgt (.ok .none) log)
  | givenUp (cur : Freq) (log : List TxEvent) (habort : s.cfg.rampOnFail = .abort) (hne : cur ≠ s.rampTgt)
      (hfail : WriteFails { s with rampCur := cur }) (hu : u = rested s cur .errRampAborted log)

/-- How a ramp ends from a later point on its way, it ends. -/
theorem RampEnd.of_underway {s u : State} {cur : Freq} {rs : RampState} {log : List TxEvent}
    (h : RampEnd (underway s cur rs log) u) : RampEnd s u := by
  cases h with
  | atTarget log' hu => exact .atTarget log' hu
  | givenUp cur' log' habort hne hfail hu => exact .givenUp cur' log' habort hne hfail hu

section

variable {s : State} (h : Ramping s)
include h

theorem Ramping.step_eq : step s = rampEvent s := by
  rcases h.waits with hop | ⟨st, hop⟩ | ⟨n, st, hop⟩
  · exact step_rampEvent hop (h.port hop)
  · rw [step_progress (by rw [hop]; nofun), progress, hop]
  · rw [step_progress (by rw [hop]; nofun), progress, hop]

theorem Ramping.step_stepping (hs : s.rampState = .stepping) : step s = exec .rampStep s := by
  rw [h.step_eq, rampEvent, hs]

theorem Ramping.step_settling (hs : s.rampState = .settling) : step s = exec .rampSettled s := by
  rw [h.step_eq, rampEvent, hs]

theorem Ramping.of_step {cur : Freq} {rs : RampState} {log : List TxEvent} (hst : step s = .next (underway s cur rs log)) :
    Ramping (underway s cur rs log) :=
  ⟨h.wf, everyStepKeepsTheInvariant _ _ h.wf h.inv hst, h.waits, h.port⟩

/-- A due write happens or is skipped, or the ramp is given up (R193). -/
theorem Ramping.step_writes (hs : s.rampState = .stepping) :
    (∃ log, step s = .next (underway s s.rampNextValue .settling log)) ∨
      s.cfg.rampOnFail = .abort ∧ WriteFails s ∧ step s = .next (rested s s.rampCur .errRampAborted s.txLog) := by
  have hf := rampNextValue_nonneg h.wf h.inv hs
  rw [h.step_stepping hs, exec_rampStep hs h.waits]
  by_cases hfail : WriteFails s
  · rw [sequencerStep_of_writeFails hf hfail]
    split
    next habort => exact .inr ⟨habort, hfail, by rw [resume_abortedRamp h.waits]⟩
    next => exact .inl ⟨_, rfl⟩
  · obtain ⟨hreg, hlookup⟩ := not_or.mp hfail
    obtain ⟨e, he⟩ := Option.ne_none_iff_exists'.mp hlookup
    rw [sequencerStep_of_entry hf (by simpa using hreg) he]
    exact .inl ⟨_, rfl⟩

/-- At the target, the settle event ends the ramp (R194). -/
theorem Ramping.step_settled_at_target (hs : s.rampState = .settling) (ht : s.rampCur = s.rampTgt) :
    step s = .next (rested s s.rampTgt (.ok .none) (s.txLog ++ [.settle])) := by
  obtain ⟨-, -, -, hp, -⟩ := h.inv
  rw [h.step_settling hs, (rampSettledEndsOrContinues s hs).2 ht]
  rcases h.waits with hop | ⟨st, hop⟩ | ⟨n, st, hop⟩
  · simp [rested, rampReturn, hop, ht]
  · simp only [ProgressOk, hop] at hp
    simp [rested, rampReturn, hop, ht, hp.2]
  · simp [rested, rampReturn, hop, ht]

/-- Short of the target, the settle event makes the next write due (R194). -/
theorem Ramping.step_settled_short (hs : s.rampState = .settling) (ht : s.rampCur ≠ s.rampTgt) :
    step s = .next (underway s s.rampCur .stepping (s.txLog ++ [.settle])) := by
  rw [h.step_settling hs, (rampSettledEndsOrContinues s hs).1 ht]
  rfl

/-- The target lies off RAMP_CUR while a write is due (R194). -/
theorem Ramping.ne_target (hs : s.rampState = .stepping) : s.rampCur ≠ s.rampTgt := by
  obtain ⟨-, hr, -⟩ := h.inv
  simp only [RampOk, hs] at hr
  obtain ⟨-, hlt⟩ | ⟨-, hlt⟩ := hr
  · exact hlt.ne
  · exact hlt.ne'

/-- A write short of the target leaves fewer step intervals to it. -/
theorem Ramping.strides_lt (hs : s.rampState = .stepping) (hne : s.rampNextValue ≠ s.rampTgt) :
    strides s.cfg.rampStep s.rampNextValue s.rampTgt < strides s.cfg.rampStep s.rampCur s.rampTgt := by
  obtain ⟨-, -, -, -, -, -, -, -, hstep, -⟩ := cfgWf_facts h.wf
  obtain ⟨-, hr, -⟩ := h.inv
  simp only [RampOk, hs] at hr
  obtain ⟨hdir, hlt⟩ | ⟨hdir, hlt⟩ := hr
  · obtain ⟨hgt, hle, -, hend⟩ := rampNextValue_of_up hdir ▸ rampNext_up_bounds hstep hlt
    exact strides_lt_of_up hstep hgt hle (hend.resolve_left hne)
  · obtain ⟨hle, hgt, -, hend⟩ := rampNextValue_of_down hdir ▸ rampNext_down_bounds hstep hlt
    exact strides_lt_of_down hstep hgt hle (hend.resolve_left hne)

end

/-- A ramp with a write due ends, after at most a write and a settle for each step interval to its target (R195). -/
theorem Ramping.ends_of_stepping {s : State} (h : Ramping s) (hs : s.rampState = .stepping) :
    ∃ (k : Nat) (u : State), (k : Int) ≤ 2 * strides s.cfg.rampStep s.rampCur s.rampTgt ∧ afterSteps k s = some u ∧
      RampEnd s u := by
  obtain ⟨-, -, -, -, -, -, -, -, hstep, -⟩ := cfgWf_facts h.wf
  have hpos := strides_pos hstep (h.ne_target hs)
  rcases h.step_writes hs with ⟨log, hwrite⟩ | ⟨habort, hfail, hstop⟩
  · have ht := h.of_step hwrite
    by_cases htgt : s.rampNextValue = s.rampTgt
    · have hsettle := ht.step_settled_at_target rfl htgt
      exact ⟨2, _, by omega, (afterSteps_succ 1 hwrite).trans (afterSteps_succ 0 hsettle), .atTarget _ rfl⟩
    · have hsettle := ht.step_settled_short rfl htgt
      have hlt := h.strides_lt hs htgt
      obtain ⟨k, u, hk, hrun, hend⟩ := (ht.of_step hsettle).ends_of_stepping rfl
      have hk : (k : Int) ≤ 2 * strides s.cfg.rampStep s.rampNextValue s.rampTgt := hk
      exact ⟨k + 2, u, by push_cast; omega,
        (afterSteps_succ (k + 1) hwrite).trans ((afterSteps_succ k hsettle).trans hrun), hend.of_underway.of_underway⟩
  · exact ⟨1, _, by omega, afterSteps_succ 0 hstop, .givenUp _ _ habort (h.ne_target hs) hfail rfl⟩
termination_by (strides s.cfg.rampStep s.rampCur s.rampTgt).toNat
decreasing_by exact (Int.toNat_lt_toNat hpos).mpr hlt

/-- Every ramp ends: a due write by the step intervals to the target, and a settle delay by its event first. -/
theorem Ramping.ends {s : State} (h : Ramping s) (hs : s.rampState ≠ .idle) :
    ∃ k u, afterSteps k s = some u ∧ RampEnd s u := by
  cases hstate : s.rampState with
  | idle => exact absurd hstate hs
  | stepping =>
    obtain ⟨k, u, -, hrun, hend⟩ := h.ends_of_stepping hstate
    exact ⟨k, u, hrun, hend⟩
  | settling =>
    by_cases ht : s.rampCur = s.rampTgt
    · exact ⟨1, _, afterSteps_succ 0 (h.step_settled_at_target hstate ht), .atTarget _ rfl⟩
    · have hsettle := h.step_settled_short hstate ht
      obtain ⟨k, u, -, hrun, hend⟩ := (h.of_step hsettle).ends_of_stepping rfl
      exact ⟨k + 1, u, (afterSteps_succ _ hsettle).trans hrun, hend.of_underway⟩

/-- Settles O47: the ramp ends in one of its two ways, and what is left of it is read off the end. -/
theorem everyRampEnds : Obligations.EveryRampEnds := by
  intro s hc hi hs hw
  have hport : s.op = .idle → s.port = [] := by
    rcases hw with ⟨-, hp⟩ | ⟨st, hop⟩ | ⟨n, st, hop⟩
    · exact fun _ => hp
    · simp [hop]
    · simp [hop]
  obtain ⟨k, u, hrun, hend⟩ := Ramping.ends ⟨hc, hi, hw.imp_left And.left, hport⟩ hs
  refine ⟨k, u, hrun, ?_⟩
  cases hend with
  | atTarget log hu =>
    subst hu
    refine ⟨rfl, rfl, rfl, rfl, .inl rfl, fun st hop => ?_, fun n st hop => ?_⟩
    · simp [rested, rampReturn, hop]
    · simp [rested, rampReturn, hop]
  | givenUp cur log habort hne hfail hu =>
    subst hu
    refine ⟨rfl, rfl, rfl, rfl, .inr ⟨habort, hne, hfail⟩, fun st hop => ?_, fun n st hop => ?_⟩
    · simp [rested, rampReturn, hop, hne]
    · simp [rested, rampReturn, hop]

/-! ## A whole RAMP (R196) -/

/-- An instruction keeps the invariant. -/
theorem exec_inv {s t : State} {i : Instr} (hc : cfgWf s.cfg = true) (hi : Inv s) (he : exec i s = .next t) : Inv t := by
  obtain ⟨hr, hp, hn⟩ := (inv_iff s).mp hi
  obtain ⟨u, hw, hu⟩ := exec_writes he
  exact (inv_iff t).mpr ⟨(hr.of_write hc hw).of_quiet hu, effect_progressOk hp (effect_of_exec he),
    (hw.accumulates.trans hu.toAccumulates).nodup hn⟩

theorem exec_ramp_at_rest {f : Freq} {s : State} (hf : 0 ≤ f) (hs : s.rampState = .idle) :
    exec (.ramp f) s = .next (if |s.rampCur - f| ≤ s.cfg.eps then returned s (.ok .none)
      else (rampRequested s f).await (.ramp (.ok .none))) := by
  rw [exec, execRamp, beginRamp_at_rest hf hs]
  split <;> rfl

/-- Settles O46: the checks of the request, and then the run to the end, which under `continue` is at the target. -/
theorem rampRunsToItsTarget : Obligations.RampRunsToItsTarget := by
  intro f s
  refine ⟨fun hf => ?_, fun hf hs => ?_, fun hf hs he => ?_, fun hf hs he hc hi hcont => ?_⟩
  · rw [exec, execRamp, beginRamp, requestRamp, if_pos hf]
    rfl
  · rw [exec, execRamp, beginRamp, requestRamp, if_neg (not_lt.mpr hf), if_pos hs]
    rfl
  · rw [exec_ramp_at_rest hf hs, if_pos he]
  · have hexec := exec_ramp_at_rest hf hs
    rw [if_neg (not_le.mpr he)] at hexec
    have hramping : Ramping ((rampRequested s f).await (.ramp (.ok .none))) :=
      ⟨hc, exec_inv hc hi hexec, .inr (.inl ⟨_, rfl⟩), nofun⟩
    obtain ⟨k, u, hk, hrun, hend⟩ := hramping.ends_of_stepping rfl
    have hbound : strides s.cfg.rampStep s.rampCur f ≤ ⌈|f - s.rampCur| / s.cfg.rampStep⌉ + 1 := strides_le ..
    refine ⟨_, u, k, hexec, rfl, hk.trans (mul_le_mul_of_nonneg_left hbound (by decide)), hrun, ?_⟩
    cases hend with
    | atTarget log hu =>
      subst hu
      exact ⟨rfl, rfl, rfl, rfl, rfl, rfl, rfl, rfl, rfl, rfl⟩
    | givenUp _ _ habort => exact absurd (hcont.symm.trans habort) (by decide)

end Sys2Proof

/-! # Faults, waiting and progress (60_exceptions.md) -/

namespace Sys2Proof

open Machine

/-! ## The port (R35, R229) -/

@[simp] theorem sendAll_port (s : State) (fs : List Bytes) : (s.sendAll fs).port = s.port := by rw [sendAll_eq]

@[simp] theorem resume_port (s : State) : s.resume.port = s.port := by
  obtain h | ⟨-, st, h⟩ := resume_cases s <;> rw [h]
  rfl

@[simp] theorem settledRamp_port (s : State) : (settledRamp s).port = s.port := by
  unfold settledRamp
  split <;> rfl

@[simp] theorem answered_port (s : State) : (answered s).port = s.port := State.dropAnswer_port s

/-- Only the step takes items from the port: no instruction does. -/
theorem effect_port {s t : State} {i : Instr} (h : Effect s i t) : t.port = s.port := by
  cases h with
  | replied | raised | jobSent | enumBegun | initBegun | wasReset | nothing | stepped | skipped | faultedStep => rfl
  | sent v fs => exact sendAll_port s fs
  | received s' a n ms clear st hs =>
    have hport : s'.port = s.port := by obtain rfl | rfl := hs <;> simp
    cases clear <;> exact hport
  | rampBegun f p => cases p <;> rfl
  | aborted => exact resume_port _
  | settled => exact (resume_port _).trans (settledRamp_port s)

/-- Nor does a round of an enumeration take one. -/
theorem enumStep_port (s : State) : (enumStep s).port = s.port := by
  rcases enumStep_cases s with ⟨c, _, h⟩ | ⟨c, c', _, h⟩ | ⟨f, n, d, _, h⟩ | ⟨f, n, d, c, _, _, h⟩ |
    ⟨f, n, d, c, c', _, h⟩ | h <;> rw [h]
  · exact answered_port s
  · exact answered_port s
  · exact answered_port s
  · obtain ht | ht | ⟨-, -, ht⟩ := initTail_cases (answered s) f n d c <;> rw [ht]
    · exact answered_port s
    · exact (sendAll_port ..).trans (answered_port s)
    · exact (sendAll_port ..).trans (answered_port s)
  · exact answered_port s

/-- Settles O6: of the ways a step can go, only the issue of an item takes it from the port, and an issue needs that no
operation is in progress. -/
theorem hostWaitsForTheOperationInProgress : Obligations.HostWaitsForTheOperationInProgress := by
  intro s t hop hst
  rcases step_cases hst with ⟨_, _, _, hidle, _⟩ | ⟨_, _, hidle, _⟩ | ⟨_, he⟩ | ⟨_, l, he⟩ | ⟨_, rfl⟩ | ⟨_, l, rfl⟩
  · exact absurd hidle hop
  · exact absurd hidle hop
  · exact effect_port (effect_of_exec he)
  · exact effect_port (s := { s with timerFirst := l }) (effect_of_exec he)
  · exact resume_port s
  · exact enumStep_port { s with timerFirst := l }

/-! ## Faults are precise (R225) -/

@[simp] theorem sendAll_faults (s : State) (fs : List Bytes) : (s.sendAll fs).faults = s.faults := by rw [sendAll_eq]

@[simp] theorem resume_faults (s : State) : s.resume.faults = s.faults := by
  obtain h | ⟨-, st, h⟩ := resume_cases s <;> rw [h]
  rfl

@[simp] theorem settledRamp_faults (s : State) : (settledRamp s).faults = s.faults := by
  unfold settledRamp
  split <;> rfl

/-- An instruction writes FAULTS only by faulting, and then it writes nothing else. -/
theorem effect_faults {s t : State} {i : Instr} (h : Effect s i t) : t.faults = s.faults ∨ ∃ f, t = faultedWith s f := by
  cases h with
  | raised f => exact .inr ⟨f, rfl⟩
  | faultedStep => exact .inr ⟨_, rfl⟩
  | replied | jobSent | enumBegun | initBegun | wasReset | nothing | stepped | skipped => exact .inl rfl
  | sent v fs => exact .inl (sendAll_faults s fs)
  | received s' a n ms clear st hs =>
    have hfaults : s'.faults = s.faults := by obtain rfl | rfl := hs <;> simp
    cases clear <;> exact .inl hfaults
  | rampBegun f p => cases p <;> exact .inl rfl
  | aborted => exact .inl (resume_faults _)
  | settled => exact .inl ((resume_faults _).trans (settledRamp_faults s))

/-- The end of an instruction without a fault: it has a status, or waits, or is an event. -/
def Ends (i : Instr) (t : State) : Prop :=
  t.ret ≠ none ∨ t.op ≠ .idle ∨ i = .rampStep ∨ i = .rampSettled

theorem ends_reply (i : Instr) (s : State) (st : Status) : Ends i (s.reply st) := .inl nofun

theorem ends_await (i : Instr) (s : State) {p : Progress} (hp : p ≠ .idle) : Ends i (s.await p) := .inr (.inl hp)

/-- An instruction ends or faults. -/
theorem effect_ends {s t : State} {i : Instr} (h : Effect s i t) : Ends i t ∨ ∃ f, t = faultedWith s f := by
  cases h with
  | raised f => exact .inr ⟨f, rfl⟩
  | faultedStep => exact .inr ⟨_, rfl⟩
  | replied | sent | jobSent | received | wasReset => exact .inl (ends_reply ..)
  | enumBegun | initBegun => exact .inl (ends_await _ _ nofun)
  | rampBegun f p _ _ _ hi =>
    obtain ⟨-, rfl⟩ | ⟨-, rfl⟩ := hi
    · exact .inl (ends_reply ..)
    · exact .inl (ends_await _ _ nofun)
  | nothing hi => exact .inl (.inr (.inr hi))
  | stepped hi | skipped hi | aborted hi => exact .inl (.inr (.inr (.inl hi)))
  | settled hi => exact .inl (.inr (.inr (.inr hi)))

/-- Settles O58: an effect that is not a fault has an end, and FAULTS as it was. -/
theorem faultsArePrecise : Obligations.FaultsArePrecise := by
  intro i s t _ hexec
  have he := effect_of_exec hexec
  rcases effect_faults he with hf | hf
  · exact (effect_ends he).imp_left (.intro hf)
  · exact .inr hf

/-! ## Nothing stops the machine (R225) -/

theorem exec_next (i : Instr) (s : State) : ∃ t, exec i s = .next t :=
  (exec_effect i s).imp fun _ => And.left

theorem issue_next (it : Item) (s : State) : ∃ t, issue it s = .next t := by
  unfold issue
  split
  · exact exec_next _ s
  · exact ⟨_, rfl⟩

theorem rampEvent_next (s : State) : ∃ t, rampEvent s = .next t := by
  unfold rampEvent
  split
  · exact ⟨_, rfl⟩
  · exact exec_next _ s
  · exact exec_next _ s

theorem awaitAnswer_next (s : State) : ∃ t, awaitAnswer s = .next t := by
  unfold awaitAnswer
  split
  · exact ⟨_, rfl⟩
  · split
    · exact exec_next _ s
    · exact ⟨_, rfl⟩
    · exact exec_next _ _

theorem progress_next (s : State) : ∃ t, progress s = .next t := by
  unfold progress
  split
  · exact awaitAnswer_next s
  · exact awaitAnswer_next s
  all_goals exact rampEvent_next s

theorem step_next (s : State) : ∃ t, step s = .next t := by
  by_cases hop : s.op = .idle
  · cases hp : s.port with
    | nil => exact step_rampEvent hop hp ▸ rampEvent_next s
    | cons it rest => exact step_issue hop hp ▸ issue_next it _
  · exact step_progress hop ▸ progress_next s

/-- Settles O59: every instruction has an effect, and an event of a step is an instruction or an update of the state. -/
theorem noInstructionStopsTheMachine : Obligations.NoInstructionStopsTheMachine := ⟨exec_next, step_next⟩

end Sys2Proof

/-! # RESET, the mask register and the spacing of a ramp's writes (70_reset_and_hazards.md) -/

namespace Sys2Proof

open Machine

/-! ## RESET (R240) -/

/-- Settles O49: the meaning of RESET writes out its five registers. -/
theorem resetRestoresTheRegisters : Obligations.ResetRestoresTheRegisters := fun _ => rfl

/-! ## Mask values are legal data of the mask register (R106, R107, R121) -/

theorem isMask_of_succ_eq {m : Word32} {k : Nat} (h : m.toNat + 1 = 2 ^ k) : isMask m = true :=
  beq_iff_eq.mpr (and_succ_eq_zero h)

theorem isMask_maskval (rounding : Rounding) (d : Word32) : isMask (maskval rounding d) = true := by
  cases rounding with
  | down => exact isMask_of_succ_eq (maskval_down d)
  | up =>
    obtain ⟨k, hk, hceil, -⟩ := pow2ceil_bounds d
    exact isMask_of_succ_eq (maskval_up hk hceil)

theorem maskLegal_maskbytes (v : Word32) : maskLegal (maskbytes v) = isMask v := by
  simp only [maskbytes, maskLegal, maskdecode, rev8_rev8, join_extractLsb']

/-! ## The frames the block sends keep the mask rule (R244) -/

/-- A frame that reads as a command frame has that command's header. -/
theorem parseFrame_cmd_header {w : Wire} {hc code : BitVec 4} {bs p : Bytes} {g : Group}
    (h : parseFrame w hc bs = .ok (.cmd g code p)) : bs[2]? = some (header w w.typeCmd g code) := by
  unfold parseFrame at h
  split at h
  next p0 p1 hd l rest =>
    split at h
    next => cases h
    next =>
      split at h
      next => cases h
      next kind hk =>
        obtain ⟨-, hhead⟩ := headerKind_some hk
        split at h
        next => cases h
        next =>
          split at h
          next =>
            split at h
            next => cases h; exact congrArg some hhead.symm
            next => cases h
          next => dsimp only at h; split at h <;> cases h
  next => cases h

/-- With the values of R7 no job frame reads as a command frame, whatever JOB_HEADER_CMD it is read with. -/
theorem parseFrame_jobframe_ne_cmd (hc hc' code : BitVec 4) (g g' : Group) (p p' : Bytes) :
    parseFrame Config.wire hc' (jobframe Config.wire hc g p) ≠ .ok (.cmd g' code p') := by
  intro h
  have hhead : header Config.wire Config.wire.typeJob g hc = header Config.wire Config.wire.typeCmd g' code :=
    Option.some.inj (parseFrame_cmd_header h)
  have htype := congrArg headerType hhead
  rw [headerType_job, headerType_command] at htype
  exact absurd htype (by decide)

/-- With the values of R7 a legal command frame keeps the mask rule when its own payload does. -/
theorem maskSafe_cmdframe {c : Cfg} (hw : c.wire = Config.wire) {g : Group} {code : BitVec 4} {p : Bytes}
    (hcode : code.toNat ≤ 3 ∧ ¬(code = Config.wire.cmdSetaddr ∧ g = .all)) (hp : p.length ≤ 252)
    (hmask : ∀ chip data, code = Config.wire.cmdWrite → p = chip :: c.family.ticketMaskReg :: data → maskLegal data = true) :
    MaskSafe c (cmdframe c.wire g code p) := by
  intro hc g' chip data h
  rw [hw, parseFrame_cmdframe (headerKind_headerOf hc ((cmd_mem_composedKinds g code).mpr hcode)) hp] at h
  injection h with h
  injection h with _ hwrite hpay
  exact hmask chip data hwrite hpay

theorem BlockFrame.maskSafe {c : Cfg} {f : Bytes} (hw : c.wire = Config.wire)
    (hne : c.family.ticketMaskReg ≠ c.family.pll0Reg)
    (hconf : ∀ f ∈ c.familyInitFrames ++ c.baudFrames, MaskSafe c f) (h : BlockFrame c f) : MaskSafe c f := by
  cases h with
  | command h =>
    obtain ⟨g, code, p, rfl, hp, hform⟩ := h
    obtain ⟨hle, hlegal, hmask⟩ := hform hw
    exact maskSafe_cmdframe hw ⟨hle, hlegal⟩ hp fun chip data hwrite hpay =>
      (hmask chip _ data hwrite hpay rfl).resolve_right hne
  | mask d =>
    refine maskSafe_cmdframe hw (by rw [hw]; decide) (by simp [maskbytes]) fun chip data _ hpay => ?_
    injection hpay with _ hpay
    injection hpay with _ hdata
    rw [← hdata, maskLegal_maskbytes, isMask_maskval]
  | job g id j =>
    intro hc g' chip data h
    rw [hw] at h
    exact absurd h (parseFrame_jobframe_ne_cmd _ hc _ g g' _ _)
  | configured h => exact hconf f h

/-- Settles O55: a step sends only the block's own frames, and each kind of them keeps the rule. -/
theorem maskRegisterNeverGetsAGap : Obligations.MaskRegisterNeverGetsAGap := by
  intro s t hw hne hconf hlog hst f hf
  rw [(step_accumulates hst).cfg]
  exact (step_sendsBlockFrames hst f hf).elim (hlog f) (BlockFrame.maskSafe hw hne hconf)

/-! ## The sequencer writes only where it then settles (R193) -/

/-- Where the sequencer's step adds to TX_LOG, it leaves the ramp settling. -/
theorem sequencerStep_txLog_or_settling (s : State) :
    (sequencerStep s).txLog = s.txLog ∨ (sequencerStep s).rampState = .settling := by
  unfold sequencerStep
  rcases setFrequency_cases .ramp s s.rampNextValue with h | h | ⟨-, h⟩ | ⟨hc, -⟩ | ⟨e, -, h⟩
  · simp only [h]
    split
    · exact .inl (resume_txLog _)
    · exact .inr rfl
  · simp only [h]
    split
    · exact .inl (resume_txLog _)
    · exact .inr rfl
  · simp only [h]
    exact .inl rfl
  · cases hc
  · simp only [h]
    exact .inr rfl

theorem exec_rampStep_writes {s t : State} (he : exec .rampStep s = .next t) (hne : t.txLog ≠ s.txLog) :
    s.rampState = .stepping ∧ t.rampState = .settling := by
  rw [exec, execRampStep] at he
  split at he
  next henabled =>
    cases he
    exact ⟨stepping_of_stepEnabled henabled, (sequencerStep_txLog_or_settling s).resolve_left hne⟩
  next =>
    cases he
    exact absurd rfl hne

/-! ## Only a settle event makes the next write due (R194) -/

/-- A settling ramp steps again, by an instruction, only by its settle event: a request finds it busy. -/
theorem effect_settles {s t : State} {i : Instr} (h : Effect s i t) (hs : s.rampState = .settling)
    (ht : t.rampState = .stepping) : t.txLog = s.txLog ++ [.settle] := by
  have hbusy : s.rampState ≠ .idle := by rw [hs]; decide
  have hne : t.rampState ≠ s.rampState := by rw [hs, ht]; decide
  have hdisabled : stepEnabled s ≠ true := fun he => by simpa [hs] using stepping_of_stepEnabled he
  cases h with
  | settled => exact (resume_txLog _).trans (settledRamp_txLog s)
  | rampBegun f p _ hidle => exact absurd hidle hbusy
  | stepped _ he | skipped _ he | aborted _ he => exact absurd he hdisabled
  | wasReset => cases ht
  | sent v fs => exact absurd (quiet_sendAll s fs).rampState hne
  | received s' a n ms clear st hs' =>
    have hstate : s'.rampState = s.rampState := by obtain rfl | rfl := hs' <;> simp
    cases clear <;> exact absurd hstate hne
  | replied | raised | jobSent | enumBegun | initBegun | nothing | faultedStep => exact absurd rfl hne

/-- INIT's tail finds a busy ramp as it is, and leaves it so (R191). -/
theorem initTail_rampState_of_busy {s : State} (hs : s.rampState ≠ .idle) (f : Freq) (n : Nat) (d : Word32) (c : Nat) :
    (s.conclude (initTail s f n d c)).rampState = s.rampState := by
  have hq := quiet_sendAll s (initFrames s.cfg n d)
  have hbusy : (s.sendAll (initFrames s.cfg n d)).rampState ≠ .idle := hq.rampState ▸ hs
  rw [initTail_eq]
  rcases beginRamp_cases (s.sendAll (initFrames s.cfg n d)) f (.initRamp c (.ok .none)) (fun _ => .ok (.count c)) with
    ⟨-, h⟩ | ⟨-, -, h⟩ | ⟨-, hidle, -⟩ | ⟨-, hidle, -⟩
  · rw [h]
    rfl
  · rw [h]
    exact hq.rampState
  · exact absurd hidle hbusy
  · exact absurd hidle hbusy

theorem enumStep_rampState_of_busy {s : State} (hs : s.rampState ≠ .idle) : (enumStep s).rampState = s.rampState := by
  have ha := (quiet_answered s).rampState
  rcases enumStep_cases s with ⟨c, -, h⟩ | ⟨c, c', -, h⟩ | ⟨f, n, d, -, h⟩ | ⟨f, n, d, c, -, -, h⟩ |
    ⟨f, n, d, c, c', -, h⟩ | h <;> rw [h]
  · exact ha
  · exact ha
  · exact ha
  · exact (initTail_rampState_of_busy (ha ▸ hs) f n d c).trans ha
  · exact ha

/-- A step leads from SETTLING to STEPPING only by the settle event. -/
theorem step_settles {s t : State} (hst : step s = .next t) (hs : s.rampState = .settling) (ht : t.rampState = .stepping) :
    t.txLog = s.txLog ++ [.settle] := by
  have hbusy : s.rampState ≠ .idle := by rw [hs]; decide
  have hne : t.rampState ≠ s.rampState := by rw [hs, ht]; decide
  rcases step_cases hst with ⟨it, rest, i, -, -, -, he⟩ | ⟨it, rest, -, -, hu⟩ | ⟨-, he⟩ | ⟨-, l, he⟩ | ⟨hidle, -⟩ |
    ⟨-, l, rfl⟩
  · exact effect_settles (s := { s with port := rest }) (effect_of_exec he) hs ht
  · obtain rfl | rfl | ⟨f, rfl⟩ := hu <;> exact absurd rfl hne
  · exact effect_settles (effect_of_exec he) hs ht
  · exact effect_settles (s := { s with timerFirst := l }) (effect_of_exec he) hs ht
  · exact absurd hidle hbusy
  · exact absurd (enumStep_rampState_of_busy (s := { s with timerFirst := l }) hbusy) hne

/-! ## Two writes of a ramp have a Settle between them (R245) -/

theorem afterSteps_txLog {k : Nat} {s t : State} (h : afterSteps k s = some t) : s.txLog <+: t.txLog := by
  induction k generalizing s with
  | zero =>
    cases h
    exact List.prefix_rfl
  | succ k ih =>
    obtain ⟨u, hu⟩ := step_next s
    rw [afterSteps_succ k hu] at h
    exact (step_accumulates hu).txLog.trans (ih h)

/-- The run splits where the ramp first leaves SETTLING; that step appends the Settle. -/
theorem afterSteps_settles {k : Nat} {s t : State} (hs : s.rampState = .settling) (hrun : afterSteps k s = some t)
    (ht : t.rampState = .stepping) (hbusy : ∀ j u, j ≤ k → afterSteps j s = some u → u.rampState ≠ .idle) :
    ∃ new, t.txLog = s.txLog ++ new ∧ .settle ∈ new := by
  induction k generalizing s with
  | zero =>
    cases hrun
    simp [hs] at ht
  | succ k ih =>
    obtain ⟨u, hu⟩ := step_next s
    rw [afterSteps_succ k hu] at hrun
    cases hstate : u.rampState with
    | idle => exact absurd hstate (hbusy 1 u (Nat.succ_le_succ k.zero_le) (afterSteps_succ 0 hu))
    | stepping =>
      obtain ⟨rest, hrest⟩ := afterSteps_txLog hrun
      refine ⟨.settle :: rest, ?_, List.mem_cons_self⟩
      rw [← hrest, step_settles hu hs hstate, List.append_assoc, List.singleton_append]
    | settling =>
      obtain ⟨first, hfirst⟩ := (step_accumulates hu).txLog
      obtain ⟨rest, hrest, hmem⟩ := ih hstate hrun fun j v hj hv =>
        hbusy (j + 1) v (Nat.succ_le_succ hj) ((afterSteps_succ j hu).trans hv)
      exact ⟨first ++ rest, by rw [hrest, ← hfirst, List.append_assoc], List.mem_append_right _ hmem⟩

/-- Settles O48: what the sequencer's step, any step, and a run from SETTLING can do. -/
theorem rampWritesAreSpacedBySettles : Obligations.RampWritesAreSpacedBySettles :=
  ⟨fun _ _ => exec_rampStep_writes, fun _ _ => step_settles, fun _ _ _ => afterSteps_settles⟩

end Sys2Proof

/-! # Issuing an instruction, the default PLL bytes, RECV_RESULT and the reset configuration -/

namespace Sys2Proof

open Machine

/-! ## Issuing an instruction (R229) -/

/-- Settles O1: the step issues the head of the port, and the issued item is executed as what it decodes to. -/
theorem stepRunsDecodedInstruction : Obligations.StepRunsDecodedInstruction := by
  intro s it rest i hop hport hdec
  rw [step_issue hop hport, issue, hdec]

/-! ## The PLL bytes of the family defaults (R9, R128) -/

theorem byteFnEval_no_overrides (dflt : Byte → Byte → Byte) (a b : Byte) : byteFnEval dflt ⟨[]⟩ a b = dflt a b := rfl

theorem toNat_and_lowNibble (b : Byte) : (b &&& 0xF).toNat = b.toNat % 16 := by
  rw [BitVec.toNat_and]
  exact Nat.and_two_pow_sub_one_eq_mod _ 4

/-- Two low nibbles packed into one byte, the first above the second. -/
theorem toNat_packNibbles (a b : Byte) : ((a &&& 0xF) <<< 4 ||| (b &&& 0xF)).toNat = a.toNat % 16 * 16 + b.toNat % 16 := by
  have hb : b.toNat % 16 < 2 ^ 4 := Nat.mod_lt _ (by decide)
  have hshift : ((a &&& 0xF) <<< 4).toNat = (a.toNat % 16) <<< 4 := by
    rw [BitVec.toNat_shiftLeft, toNat_and_lowNibble, Nat.shiftLeft_eq]
    omega
  rw [BitVec.toNat_or, hshift, toNat_and_lowNibble, ← Nat.shiftLeft_add_eq_or_of_lt hb, Nat.shiftLeft_eq]

/-- A byte less one, taken modulo 16. -/
theorem toNat_sub_one_mod_sixteen (b : Byte) : (b - 1).toNat % 16 = (b.toNat + 15) % 16 := by
  bv_omega

/-- Settles O26: without overrides the family functions are the default formulas, and PD_PACK joins two nibbles. -/
theorem defaultPllDataBytes : Obligations.DefaultPllDataBytes := by
  intro fam fb rd p1 p2 hfreq hpack
  constructor
  · rw [freqCtrl, hfreq, byteFnEval_no_overrides]
    rfl
  · rw [pdPack, hpack, byteFnEval_no_overrides, defaultPdPack, toNat_packNibbles, toNat_sub_one_mod_sixteen,
      toNat_sub_one_mod_sixteen]

/-! ## FREQFRAME on a negative frequency (R75, R128) -/

/-- Settles O25: the sign is the first check of R128. -/
theorem freqframeRefusesNegativeFrequency : Obligations.FreqframeRefusesNegativeFrequency := by
  intro e s hneg
  rw [exec, execFreqframe, frequencyFrame, if_pos hneg, conclude_faultedWith]

/-! ## RECV_RESULT (R150) -/

theorem le32_eq_or (b0 b1 b2 b3 : Byte) :
    le32 b0 b1 b2 b3 =
      b0.setWidth 32 ||| b1.setWidth 32 <<< 8 ||| b2.setWidth 32 <<< 16 ||| b3.setWidth 32 <<< 24 := by
  have h : le32 b0 b1 b2 b3 =
      b3.setWidth 32 <<< 24 ||| b2.setWidth 32 <<< 16 ||| b1.setWidth 32 <<< 8 ||| b0.setWidth 32 :=
    (BitVec.setWidth_eq _).symm.trans BitVec.setWidth_append_append_append_eq_shiftLeft_setWidth_or
  rw [h, BitVec.or_comm _ (b0.setWidth 32), BitVec.or_comm _ (b1.setWidth 32 <<< 8), BitVec.or_comm _ (b2.setWidth 32 <<< 16),
    ← BitVec.or_assoc, ← BitVec.or_assoc]

/-- The verdict of RECV_RESULT on the answer `a` to its Receive. -/
def answerVerdict (c : Cfg) (a : Answer) : Status :=
  resultVerdict c (answerRc c.resultLen a) (answerBuf c.resultLen a)

/-- RECV_RESULT takes the next answer, logs it, and returns its verdict, with a ClearBuffer where the verdict asks for one. -/
theorem exec_recvResult {s : State} {a : Answer} {rest : List Answer} {drawn : Nat} (h : NextAnswerIs s a rest drawn) :
    exec .recvResult s = .next
      { s with
        rx := rest, draws := drawn, op := .idle, ret := some (answerVerdict s.cfg a)
        txLog := s.txLog ++ [receivedEntry s.cfg.resultLen s.cfg.workTimeoutMs a] ++
          (if clearsBuffer (answerVerdict s.cfg a) = true then [.clearBuffer] else []) } := by
  rw [exec, execRecvResult, State.receive, h.nextAnswer, h.dropAnswer, finishReceive]
  rw [receiveFrom_rc, receiveFrom_buf, ← answerVerdict, conclude_reply]
  split
  · rfl
  · rw [List.append_nil]
    rfl

theorem answerVerdict_error (c : Cfg) : answerVerdict c .error = .noneTransport := rfl

theorem answerVerdict_empty (c : Cfg) : answerVerdict c (.bytes []) = .noneTimeout := by
  rw [answerVerdict, answerRc, List.take_nil]
  rfl

theorem answerVerdict_short {c : Cfg} {bs : Bytes} (hne : bs ≠ []) (hlt : bs.length < c.resultLen) :
    answerVerdict c (.bytes bs) = .noneLength bs.length := by
  have hpos : 0 < bs.length := List.length_pos_of_ne_nil hne
  rw [answerVerdict, answerRc, List.take_of_length_le hlt.le, resultVerdict, if_neg (by omega), if_neg (by omega),
    if_pos (by omega)]

/-- The verdict on an answer of all the bytes asked for; any beyond them are dropped (log 6). -/
theorem answerVerdict_full {c : Cfg} {p0 p1 b0 b1 b2 b3 m i : Byte} {buf : Bytes} (hlen : buf.length = c.resultLen)
    (hfirst : buf.take 8 = [p0, p1, b0, b1, b2, b3, m, i]) (more : Bytes) :
    answerVerdict c (.bytes (buf ++ more)) =
      if (p0, p1) ≠ c.wire.respPreamble then .nonePreamble p0 p1
      else if crc5 c.wire (buf.drop 2) ≠ 0 then .noneCrc
      else if c.jobidMod ≤ (i &&& 0xFC).toNat then .noneProtocol (i &&& 0xFC)
      else .result (i &&& 0xFC) (i &&& 0x03) [b0, b1, b2, b3]
        (b0.setWidth 32 ||| b1.setWidth 32 <<< 8 ||| b2.setWidth 32 <<< 16 ||| b3.setWidth 32 <<< 24) := by
  have hbody : slice buf 2 c.resultLen = buf.drop 2 := by rw [slice_of_le hlen.ge, ← hlen, List.take_length]
  obtain ⟨tail, rfl⟩ : ∃ tail, buf = [p0, p1, b0, b1, b2, b3, m, i] ++ tail :=
    ⟨buf.drop 8, by rw [← hfirst, List.take_append_drop]⟩
  have hpos : c.resultLen ≠ 0 := by rw [← hlen]; nofun
  rw [answerVerdict, answerRc, answerBuf, List.take_left' hlen, hlen, resultVerdict, if_neg (by omega), if_neg (by omega),
    if_neg (not_not.mpr rfl), hbody, ← le32_eq_or]
  simp only [ne_eq, ← respBytes_eq_iff]
  rfl

/-- Settles O36: one Receive, and then the verdict by what the transport answered. -/
theorem recvResultChecksInOrder : Obligations.RecvResultChecksInOrder := by
  intro s a rest drawn hnext _
  refine ⟨_, _, exec_recvResult hnext, ?_, ?_, ?_, ?_⟩
  · rintro rfl
    exact ⟨answerVerdict_error _, rfl⟩
  · rintro rfl
    rw [answerVerdict_empty]
    exact ⟨rfl, rfl⟩
  · rintro bs rfl hne hlt
    rw [answerVerdict_short hne hlt]
    exact ⟨rfl, rfl⟩
  · rintro p0 p1 b0 b1 b2 b3 m i more buf rfl hlen htake
    rw [answerVerdict_full hlen htake]
    split_ifs <;> rfl

/-! ## The reset configuration (R7, R241; log 7) -/

theorem cfgWf_resetCfg : cfgWf State.reset.cfg = true := by decide +kernel

/-- Settles O51: the values are those of the record, and REFUSED is the launch check. -/
theorem defaultConfigurationLaunches : Obligations.DefaultConfigurationLaunches :=
  ⟨rfl, ⟨rfl, rfl, rfl, rfl, rfl, rfl, rfl, rfl⟩, cfgWf_resetCfg, (Bool.not_eq_false' _).mpr cfgWf_resetCfg⟩

end Sys2Proof
